-- ==== Sys2Proof/Word.lean ====
section
/-! DEFINITION. The word types of the block: bytes, 32-bit registers, 24-bit addresses, 64-bit transaction words
(spec/00_scope.md R8, spec/30_encoding.md R52). -/

namespace Sys2Proof

/-- A byte of a buffer (R8). -/
abbrev Byte := BitVec 8

/-- A register of the block, 32 bits on the host interface (R11). -/
abbrev Word := BitVec 32

/-- The `addr` field of a transaction: a register number or a byte offset (R52). -/
abbrev Addr := BitVec 24

/-- A host transaction word (R52). -/
abbrev TWord := BitVec 64

end Sys2Proof
end

