-- ==== Sys2Proof/Syntax.lean ====
section
/-! DEFINITION. The syntax of the block's interface: its buffers, its registers and its instructions
(spec/10_state.md R11, R13; spec/30_encoding.md R53, R54, R56; spec/opcode_table.json). -/

namespace Sys2Proof

/-- The three byte buffers (R13). -/
inductive Buf where
  /-- `TXF`, the transmit frame buffer. -/
  | txf
  /-- `RXF`, the receive frame buffer. -/
  | rxf
  /-- `PWIN`, the payload window. -/
  | pwin
deriving DecidableEq, Repr

/-- The twenty registers (R11). -/
inductive Reg where
  | cmd | status | csum | version | buflen
  | txFlags | txSeq | txAck | txPlen | txPdone | txPoff | txLen
  | rxLen | rxFlags | rxSeq | rxAck | rxPoff | rxPlen
  | hoff | hlen
deriving DecidableEq, Repr

/-- The instructions: one constructor per row of spec/opcode_table.json. -/
inductive Instr where
  /-- `ENCODE` (R60). -/
  | encode
  /-- `DECODE` (R70). -/
  | decode
  /-- `APPEND_FIN` (R80). -/
  | appendFin
  /-- `HASH_TX` (R91). -/
  | hashTx
  /-- `HASH_RX` (R92). -/
  | hashRx
  /-- `CMD.RSVD`: a write of a reserved command code (R54). -/
  | cmdRsvd (code : Word)
  /-- `WRREG`: a write of a register other than `CMD` (R94). -/
  | wrreg (addr : Addr) (data : Word)
  /-- `RDREG`: a read of a register (R95). -/
  | rdreg (addr : Addr)
  /-- `WRB.TXF` (R96). -/
  | wrbTxf (addr : Addr) (data : Byte)
  /-- `RDB.TXF` (R97). -/
  | rdbTxf (addr : Addr)
  /-- `WRB.RXF` (R98). -/
  | wrbRxf (addr : Addr) (data : Byte)
  /-- `RDB.RXF` (R99). -/
  | rdbRxf (addr : Addr)
  /-- `WRB.PWIN` (R100). -/
  | wrbPwin (addr : Addr) (data : Byte)
  /-- `RDB.PWIN` (R101). -/
  | rdbPwin (addr : Addr)
deriving DecidableEq, Repr

end Sys2Proof
end

