-- ==== Sys2Proof/Config.lean ====
section
/-! DEFINITION. What an implementation fixes (spec/00_scope.md R5, R6) and the free values (spec/70_reset_and_hazards.md
R143). A `Config` is one legal configuration; `Config.active` is the one the machine has, and nothing is known of it
beyond its type. The default values of the fields are the reference values of R5, which only tests use (PRESUMED by the spec, log entry 13). -/

namespace Sys2Proof

/-- One bit step of the reference checksum (R88). -/
def crcBit (crc : Word) : Word :=
  if crc.getLsbD 0 then (crc >>> 1) ^^^ 0xEDB88320#32 else crc >>> 1

/-- One byte of the reference checksum: exclusive-or it in, then eight bit steps (R88). -/
def crcByte (crc : Word) (b : Byte) : Word :=
  crcBit (crcBit (crcBit (crcBit (crcBit (crcBit (crcBit (crcBit (crc ^^^ b.setWidth 32))))))))

/-- The reference `Hash`, CRC-32/ISO-HDLC (R88). The machine never names it: `Hash` is `Config.hash`. -/
def referenceHash (bytes : List Byte) : Word :=
  bytes.foldl crcByte 0xFFFFFFFF#32 ^^^ 0xFFFFFFFF#32

/-- Two byte sequences of equal length that differ in exactly one bit of one byte (R87). -/
def DifferInOneBit (xs ys : List Byte) : Prop :=
  ∃ (before after : List Byte) (b : Byte) (j : Fin 8),
    xs = before ++ b :: after ∧ ys = before ++ (b ^^^ (1#8 <<< j.val)) :: after

theorem crcBit_injective {a b : Word} (h : crcBit a = crcBit b) : a = b := by
  have top : ∀ c : Word, (crcBit c).getLsbD 31 = c.getLsbD 0 := by
    intro c
    unfold crcBit
    split
    · next hc => rw [hc]; simp
    · next hc => simp at hc ⊢; exact hc
  have h0 : a.getLsbD 0 = b.getLsbD 0 := by rw [← top a, ← top b, h]
  have hs : a >>> 1 = b >>> 1 := by
    unfold crcBit at h
    rw [h0] at h
    split at h
    · exact (BitVec.xor_left_inj _).mp h
    · exact h
  apply BitVec.eq_of_getLsbD_eq
  intro i _
  cases i with
  | zero => exact h0
  | succ k =>
    have := congrArg (fun w : Word => w.getLsbD k) hs
    simpa [BitVec.getLsbD_ushiftRight, Nat.add_comm] using this

theorem crcByte_injective_left {a b : Word} {x : Byte} (h : crcByte a x = crcByte b x) : a = b := by
  unfold crcByte at h
  have := crcBit_injective (crcBit_injective (crcBit_injective (crcBit_injective
    (crcBit_injective (crcBit_injective (crcBit_injective (crcBit_injective h)))))))
  exact (BitVec.xor_left_inj _).mp this

theorem crcByte_injective_right {a : Word} {x y : Byte} (h : crcByte a x = crcByte a y) : x = y := by
  unfold crcByte at h
  have h' := crcBit_injective (crcBit_injective (crcBit_injective (crcBit_injective
    (crcBit_injective (crcBit_injective (crcBit_injective (crcBit_injective h)))))))
  have hw : x.setWidth 32 = y.setWidth 32 := (BitVec.xor_right_inj _).mp h'
  apply BitVec.eq_of_toNat_eq
  have := congrArg BitVec.toNat hw
  have hx := x.isLt
  have hy := y.isLt
  simp only [BitVec.toNat_setWidth] at this
  omega

theorem crcFold_injective {a b : Word} (xs : List Byte)
    (h : xs.foldl crcByte a = xs.foldl crcByte b) : a = b := by
  induction xs generalizing a b with
  | nil => exact h
  | cons x xs ih => exact crcByte_injective_left (ih h)

/-- A flipped bit changes the byte it stands in. -/
theorem flip_ne (b : Byte) (j : Fin 8) : b ^^^ (1#8 <<< j.val) ≠ b := by
  intro h
  have hz : ∀ k : Fin 8, (1#8 <<< k.val) ≠ 0#8 := by decide
  have h2 : b ^^^ (1#8 <<< j.val) = b ^^^ 0#8 := by simpa using h
  exact hz j ((BitVec.xor_right_inj _).mp h2)

/-- The reference `Hash` has the property R87 asks of every configuration. -/
theorem referenceHash_single_bit {xs ys : List Byte} (h : DifferInOneBit xs ys) :
    referenceHash xs ≠ referenceHash ys := by
  obtain ⟨before, after, b, j, rfl, rfl⟩ := h
  intro he
  unfold referenceHash at he
  have he := (BitVec.xor_left_inj _).mp he
  simp only [List.foldl_append, List.foldl_cons] at he
  exact flip_ne b j (crcByte_injective_right (crcFold_injective after he)).symm

/-- One legal configuration (R5). `buflenExtra` is `BUFLEN - 14`, so that every value of the field is a legal `BUFLEN`,
14 to 2^24 (R6). -/
structure Config where
  /-- `BUFLEN - 14`. -/
  buflenExtra : Fin 16777203 := 498
  /-- The one supported version byte (R48). -/
  version : Byte := 0x01#8
  /-- The checksum function `Hash` (R85, R86). -/
  hash : List Byte → Word := referenceHash
  /-- The free value behind the buffers' contents after reset (R143; log entry 2): the byte an offset of a buffer holds before
  anything is written to it, for each draw of those contents. -/
  resetByte : Nat → Buf → Nat → Byte := fun _ _ _ => 0#8
  /-- The free value that picks the draw at a reset (R142, R143; log entry 2), from the number of resets so far, the draw of
  before and the old cells of `TXF`, `RXF` and `PWIN`: nothing says that the new contents are independent of the old, written
  or unwritten. DESIGN CHOICE: they depend on nothing else, so not on the registers. -/
  resetDraw : Nat → Nat → List (Nat × Byte) → List (Nat × Byte) → List (Nat × Byte) → Nat := fun n _ _ _ _ => n
  /-- `hash_single_bit`, the one property a configured `Hash` must have (R87); `BUFLEN - 4` is `buflenExtra + 10`. -/
  hash_single_bit : ∀ xs ys : List Byte, xs.length ≤ buflenExtra.val + 10 → DifferInOneBit xs ys →
      hash xs ≠ hash ys := by exact fun _ _ _ h => referenceHash_single_bit h
deriving Inhabited

/-- `BUFLEN`, the capacity of a frame in bytes (R5). -/
def Config.buflen (c : Config) : Nat := c.buflenExtra.val + 14

/-- The configuration of the machine: uninterpreted (R5, "every rule of this spec holds for every legal value";
DESIGN CHOICE of form, log entry 1). -/
opaque Config.active : Config

/-- The reference configuration of spec/95_test_vectors.md: `BUFLEN` 512, `VERSION` 1, CRC-32. Tests only. -/
def Config.reference : Config := {}

/-- The reference configuration with `BUFLEN` 16 and every buffer byte 0xEE, as vectors T1 to T4 have it. Tests only. -/
def Config.reference16 : Config := { buflenExtra := 2, resetByte := fun _ _ _ => 0xEE#8 }

end Sys2Proof
end

