-- ==== Sys2Proof/Machine/Space.lean ====
section
/-! DEFINITION. The address spaces, the register numbers and the command codes
(spec/10_state.md R11, R13, R26; spec/20_memory.md R30; spec/30_encoding.md R52, R53). -/

namespace Sys2Proof

/-- `PWIN_SIZE`, the largest payload any frame can carry (R6). -/
def Config.pwinSize (c : Config) : Nat := c.buflen - 6

/-- The size of a buffer in bytes (R13). -/
def Config.bufSize (c : Config) : Buf → Nat
  | .txf => c.buflen
  | .rxf => c.buflen
  | .pwin => c.pwinSize

/-- The `space` code of a buffer (R30); code 0 is the register file. -/
def Buf.space : Buf → BitVec 4
  | .txf => 1#4
  | .rxf => 2#4
  | .pwin => 3#4

/-- The buffer a non-zero `space` code selects; 4 to 0xF are reserved (R52). -/
def bufOfSpace (space : BitVec 4) : Option Buf :=
  if space = 1#4 then some .txf
  else if space = 2#4 then some .rxf
  else if space = 3#4 then some .pwin
  else none

/-- The number of a register (R11). -/
def Reg.number : Reg → Addr
  | .cmd => 0x00#24
  | .status => 0x01#24
  | .csum => 0x02#24
  | .version => 0x03#24
  | .buflen => 0x04#24
  | .txFlags => 0x05#24
  | .txSeq => 0x06#24
  | .txAck => 0x07#24
  | .txPlen => 0x08#24
  | .txPdone => 0x09#24
  | .txPoff => 0x0A#24
  | .txLen => 0x0B#24
  | .rxLen => 0x0C#24
  | .rxFlags => 0x0D#24
  | .rxSeq => 0x0E#24
  | .rxAck => 0x0F#24
  | .rxPoff => 0x10#24
  | .rxPlen => 0x11#24
  | .hoff => 0x12#24
  | .hlen => 0x13#24

/-- The registers in the order of their numbers (R11). -/
def allRegs : List Reg :=
  [.cmd, .status, .csum, .version, .buflen, .txFlags, .txSeq, .txAck, .txPlen, .txPdone,
   .txPoff, .txLen, .rxLen, .rxFlags, .rxSeq, .rxAck, .rxPoff, .rxPlen, .hoff, .hlen]

/-- The register a number names; none for the reserved numbers 0x14 to 0xFFFFFF (R26). -/
def regAt (addr : Addr) : Option Reg := allRegs[addr.toNat]?

/-- The command a write to `CMD` starts: the five codes of R53, and the reserved command for every other value (R54). -/
def commandOf (data : Word) : Instr :=
  if data = 1#32 then .encode
  else if data = 2#32 then .decode
  else if data = 3#32 then .appendFin
  else if data = 4#32 then .hashTx
  else if data = 5#32 then .hashRx
  else .cmdRsvd data

/-- Whether a command code is reserved (R54). -/
def isReservedCode (code : Word) : Bool := 5 < code.toNat || code.toNat == 0

/-- Whether an offset lies in a buffer (R30). -/
def inBuffer (c : Config) (b : Buf) (addr : Addr) : Bool := decide (addr.toNat < c.bufSize b)

end Sys2Proof
end

