-- ==== Sys2Proof/WellFormed.lean ====
section
/-! DEFINITION. Which instruction terms are host transactions (spec/30_encoding.md R53 to R56): a reserved command has a
reserved code, a register write does not name `CMD`, a buffer offset lies in its buffer. -/

namespace Sys2Proof

/-- The instruction is one some transaction word stands for. -/
def Instr.wellFormed (c : Config) : Instr → Bool
  | .encode | .decode | .appendFin | .hashTx | .hashRx => true
  | .cmdRsvd code => isReservedCode code
  | .wrreg addr _ => addr != 0#24
  | .rdreg _ => true
  | .wrbTxf addr _ => inBuffer c .txf addr
  | .rdbTxf addr => inBuffer c .txf addr
  | .wrbRxf addr _ => inBuffer c .rxf addr
  | .rdbRxf addr => inBuffer c .rxf addr
  | .wrbPwin addr _ => inBuffer c .pwin addr
  | .rdbPwin addr => inBuffer c .pwin addr

/-- Well-formedness as a proposition. -/
abbrev Instr.WellFormed (c : Config) (i : Instr) : Prop := i.wellFormed c = true

end Sys2Proof
end

