-- ==== Sys2Proof/Decode.lean ====
section
/-! DEFINITION. The transaction word (spec/30_encoding.md R52): its decoder, total on all 64-bit words and rejecting by
name (R55), and its encoder, written from the same tables (R53, R54, R56). -/

namespace Sys2Proof

/-- Why a word is not a host transaction (R55). Which of several reasons is named is a DESIGN CHOICE (log entry 10), safe. -/
inductive DecodeError where
  /-- `kind` is 0x0 or 0x3 to 0xF. -/
  | reservedKind
  /-- `space` is 4 to 0xF. -/
  | reservedSpace
  /-- A buffer write with non-zero `data[31:8]`. -/
  | upperDataBits
  /-- A read with non-zero `data`. -/
  | readData
  /-- A buffer `addr` at or beyond the buffer's size. -/
  | outsideBuffer
deriving DecidableEq, Repr

/-- `T[63:60]` (R52). -/
def TWord.kind (w : TWord) : BitVec 4 := w.extractLsb' 60 4

/-- `T[59:56]` (R52). -/
def TWord.space (w : TWord) : BitVec 4 := w.extractLsb' 56 4

/-- `T[55:32]` (R52). -/
def TWord.addr (w : TWord) : Addr := w.extractLsb' 32 24

/-- `T[31:0]` (R52). -/
def TWord.data (w : TWord) : Word := w.extractLsb' 0 32

/-- `data[7:0]`, the byte of a buffer write (R52). -/
def TWord.dataByte (w : TWord) : Byte := w.extractLsb' 0 8

/-- `data[31:8]`, zero in a buffer write (R52). -/
def TWord.dataUpper (w : TWord) : BitVec 24 := w.extractLsb' 8 24

/-- The byte write of a buffer (R56). -/
def writeByteOf : Buf → Addr → Byte → Instr
  | .txf => .wrbTxf
  | .rxf => .wrbRxf
  | .pwin => .wrbPwin

/-- The byte read of a buffer (R56). -/
def readByteOf : Buf → Addr → Instr
  | .txf => .rdbTxf
  | .rxf => .rdbRxf
  | .pwin => .rdbPwin

/-- A write: the command rows first, then the register and buffer rows (R53 to R56). -/
def decodeWrite (c : Config) (w : TWord) : Except DecodeError Instr :=
  if w.space = 0#4 then
    if w.addr = 0#24 then .ok (commandOf w.data) else .ok (.wrreg w.addr w.data)
  else
    match bufOfSpace w.space with
    | none => .error .reservedSpace
    | some b =>
      if w.dataUpper ≠ 0#24 then .error .upperDataBits
      else if inBuffer c b w.addr then .ok (writeByteOf b w.addr w.dataByte)
      else .error .outsideBuffer

/-- A read (R56). -/
def decodeRead (c : Config) (w : TWord) : Except DecodeError Instr :=
  if w.space = 0#4 then
    if w.data ≠ 0#32 then .error .readData else .ok (.rdreg w.addr)
  else
    match bufOfSpace w.space with
    | none => .error .reservedSpace
    | some b =>
      if w.data ≠ 0#32 then .error .readData
      else if inBuffer c b w.addr then .ok (readByteOf b w.addr)
      else .error .outsideBuffer

/-- The decoder: the instruction a transaction word stands for, or why it is no transaction (R52 to R56). -/
def decode (c : Config) (w : TWord) : Except DecodeError Instr :=
  if w.kind = 1#4 then decodeWrite c w
  else if w.kind = 2#4 then decodeRead c w
  else .error .reservedKind

/-- The word with the four fields of R52. -/
def packWord (kind space : BitVec 4) (addr : Addr) (data : Word) : TWord :=
  kind ++ space ++ addr ++ data

/-- The encoder: the transaction word of an instruction (R53, R54, R56). -/
def encode : Instr → TWord
  | .encode => packWord 1#4 0#4 0#24 1#32
  | .decode => packWord 1#4 0#4 0#24 2#32
  | .appendFin => packWord 1#4 0#4 0#24 3#32
  | .hashTx => packWord 1#4 0#4 0#24 4#32
  | .hashRx => packWord 1#4 0#4 0#24 5#32
  | .cmdRsvd code => packWord 1#4 0#4 0#24 code
  | .wrreg addr data => packWord 1#4 0#4 addr data
  | .rdreg addr => packWord 2#4 0#4 addr 0#32
  | .wrbTxf addr data => packWord 1#4 1#4 addr (data.setWidth 32)
  | .rdbTxf addr => packWord 2#4 1#4 addr 0#32
  | .wrbRxf addr data => packWord 1#4 2#4 addr (data.setWidth 32)
  | .rdbRxf addr => packWord 2#4 2#4 addr 0#32
  | .wrbPwin addr data => packWord 1#4 3#4 addr (data.setWidth 32)
  | .rdbPwin addr => packWord 2#4 3#4 addr 0#32

/-- The word of `nbits` bits whose value is `w`, every bit above them 0. -/
def tableWord (nbits w : Nat) : TWord := BitVec.ofNat 64 (w % 2 ^ nbits)

/-- What the machine's decoder reads from a word numbered as spec/opcode_table.json numbers it: the table gives each row
one 64-bit word, so its bits are the transaction word's own. -/
def decodeTableWord (nbits w : Nat) : Option Instr := (decode Config.active (tableWord nbits w)).toOption

/-- The word of each row of the opcode table decodes to that row's instruction; the words stand in
spec/95_test_vectors.md (P1, X2, W1, W5, W10, W11) or are written out from R56. -/
theorem decode_row_encode : decode Config.active 0x1000000000000001#64 = .ok .encode := by decide
theorem decode_row_decode : decode Config.active 0x1000000000000002#64 = .ok .decode := by decide
theorem decode_row_appendFin : decode Config.active 0x1000000000000003#64 = .ok .appendFin := by decide
theorem decode_row_hashTx : decode Config.active 0x1000000000000004#64 = .ok .hashTx := by decide
theorem decode_row_hashRx : decode Config.active 0x1000000000000005#64 = .ok .hashRx := by decide
theorem decode_row_cmdRsvd : decode Config.active 0x1000000000000101#64 = .ok (.cmdRsvd 0x101#32) := by decide
theorem decode_row_wrreg : decode Config.active 0x1000000500000132#64 = .ok (.wrreg 5#24 0x132#32) := by decide
theorem decode_row_rdreg : decode Config.active 0x2000000B00000000#64 = .ok (.rdreg 0x0B#24) := by decide
theorem decode_row_wrbTxf : decode Config.active 0x1100000500000014#64 = .ok (.wrbTxf 5#24 0x14#8) := by decide
theorem decode_row_rdbTxf : decode Config.active 0x2100000C00000000#64 = .ok (.rdbTxf 12#24) := by decide
theorem decode_row_wrbRxf : decode Config.active 0x1200000900000007#64 = .ok (.wrbRxf 9#24 0x07#8) := by decide
theorem decode_row_rdbRxf : decode Config.active 0x2200000600000000#64 = .ok (.rdbRxf 6#24) := by decide
theorem decode_row_wrbPwin : decode Config.active 0x1300000000000047#64 = .ok (.wrbPwin 0#24 0x47#8) := by decide
theorem decode_row_rdbPwin : decode Config.active 0x2300000000000000#64 = .ok (.rdbPwin 0#24) := by decide

end Sys2Proof
end

