-- ==== Sys2Proof/Machine/State.lean ====
section
/-! DEFINITION. The state of the block (spec/10_state.md R10 to R24), the host's pending inputs (spec/00_scope.md R7), and
the ways a step can stop. `CMD`, `VERSION` and `BUFLEN` store nothing: their home is the register read operation (R12, R15). -/

namespace Sys2Proof.Machine

/-- A buffer's contents: (offset, byte) cells in rising order of offset, none equal to what an unlisted offset reads as. -/
abbrev Memory := List Host.Cell

/-- An input of the host: a transaction word (R52) or the reset event (R142). -/
inductive HostInput where
  /-- A host transaction word. -/
  | transaction (w : TWord)
  /-- Reset, the third kind of step (R7, R142). -/
  | reset
deriving DecidableEq, Repr

/-- The result codes in the order of the taxonomy (R131); the block itself writes `ok`, `version`, `short`, `checksum`,
`blockTooLarge` and `unknown`, the others are the host's (R110). -/
inductive ResultCode where
  | ok | version | short | checksum | blockTooLarge
  | cannotSend | cannotRecv | wrongFlag | ackDecreased | noAck | wrongAck | tooManyRetx | addrParse
  | unknown
deriving DecidableEq, Repr

/-- The architectural state of the block, and below it four fields of the model's own. -/
structure State where
  /-- `STATUS[7:0]`: the result code of the last command (R12). -/
  status : Byte
  /-- `CSUM`: the last checksum the engine computed (R14). -/
  csum : Word
  /-- `TX_FLAGS[7:0]`: the flags operand of ENCODE (R16). -/
  txFlags : Byte
  /-- `TX_SEQ`: the sequence-number operand of ENCODE (R16). -/
  txSeq : Word
  /-- `TX_ACK`: the acknowledgment-number operand of ENCODE (R16). -/
  txAck : Word
  /-- `TX_PLEN`: the payload bytes offered to ENCODE (R16). -/
  txPlen : Word
  /-- `TX_PDONE`: the payload bytes ENCODE placed in the frame (R17). -/
  txPdone : Word
  /-- `TX_POFF`: the offset of the payload in `TXF` (R17). -/
  txPoff : Word
  /-- `TX_LEN`: the used length of `TXF` (R17). -/
  txLen : Word
  /-- `RX_LEN`: the received length in `RXF` (R18). -/
  rxLen : Word
  /-- `RX_FLAGS[7:0]`: the decoded flags (R18). -/
  rxFlags : Byte
  /-- `RX_SEQ`: the decoded sequence number (R18). -/
  rxSeq : Word
  /-- `RX_ACK`: the decoded acknowledgment number (R18). -/
  rxAck : Word
  /-- `RX_POFF`: the offset of the decoded payload in `RXF` (R18). -/
  rxPoff : Word
  /-- `RX_PLEN`: the length of the decoded payload (R18). -/
  rxPlen : Word
  /-- `HOFF`: the span offset of HASH_TX and HASH_RX (R19). -/
  hoff : Word
  /-- `HLEN`: the span length of HASH_TX and HASH_RX (R19). -/
  hlen : Word
  /-- `TXF`, the transmit frame buffer (R13). -/
  txf : Memory
  /-- `RXF`, the receive frame buffer (R13). -/
  rxf : Memory
  /-- `PWIN`, the payload window (R13). -/
  pwin : Memory
  /-- Model field: the number of reset events so far, an argument of the free value `Config.resetDraw`
  (DESIGN CHOICE, log entry 2). -/
  resets : Nat
  /-- Model field: which draw of the unspecified reset contents the buffers hold, the argument of the free value
  `Config.resetByte` (DESIGN CHOICE, log entry 2). -/
  draw : Nat
  /-- Model field: the host's inputs not yet performed, oldest first (DESIGN CHOICE, log entry 3). -/
  pending : List HostInput
  /-- Model field: the value the last transaction returned to the host, none if it was no read (R52; DESIGN CHOICE,
  log entry 4). -/
  result : Option Word
deriving DecidableEq, Repr

/-- The reasons for a fault: none. Nothing in this hardware traps or stops (R130, R135, spec/93 after U16: "Nothing in this
hardware is treated as `fault`"). -/
inductive Fault where
deriving DecidableEq, Repr

/-- The reasons for a refusal. All are safe: the model stops where the spec says that it gives no behaviour (R103). -/
inductive Refusal where
  /-- Raised by `exec` for an instruction without a meaning (none is left). Safe. -/
  | notModelled (mnemonic : String)
  /-- Raised by `step` for a word that is no host transaction (R55, R103). Safe. -/
  | notATransaction (reason : DecodeError)
  /-- Raised by the buffer accesses for an offset at or beyond the buffer's size (R103); no decoded word reaches it. Safe. -/
  | outsideBuffer (buf : Buf) (addr : Addr)
  /-- Raised by `CMD.RSVD` with one of the codes 1 to 5, a term no word decodes to (R53, R54; DESIGN CHOICE,
  log entry 6). Safe. -/
  | codeNotReserved (code : Word)
  /-- Raised by `WRREG` of register 0, a term no word decodes to: a write to `CMD` is a command (R53, R94; DESIGN
  CHOICE, log entry 6). Safe. -/
  | writeToCmd (data : Word)
deriving DecidableEq, Repr

/-- The state right after reset (R25, R143): every stored register 0, no buffer byte written since, nothing pending. -/
def State.reset : State where
  status := 0#8
  csum := 0#32
  txFlags := 0#8
  txSeq := 0#32
  txAck := 0#32
  txPlen := 0#32
  txPdone := 0#32
  txPoff := 0#32
  txLen := 0#32
  rxLen := 0#32
  rxFlags := 0#8
  rxSeq := 0#32
  rxAck := 0#32
  rxPoff := 0#32
  rxPlen := 0#32
  hoff := 0#32
  hlen := 0#32
  txf := []
  rxf := []
  pwin := []
  resets := 0
  draw := 0
  pending := []
  result := none

end Sys2Proof.Machine
end

