-- ==== Sys2Proof/Machine/Flags.lean ====
section
/-! DEFINITION. The flags byte, the layout it declares, and the result codes
(spec/30_encoding.md R43, R44, R46; spec/60_exceptions.md R131). -/

namespace Sys2Proof.Machine

/-- The eight flags in the order of their bits (R46). -/
inductive Flag where
  | syn | ack | fin | rst | dat | blk | rsv6 | rsv7
deriving DecidableEq, Repr

/-- The mask of a flag (R46; DEDUCED that it is fixed, log entry 7). -/
def flagMask : Flag → Byte
  | .syn => 0x01#8
  | .ack => 0x02#8
  | .fin => 0x04#8
  | .rst => 0x08#8
  | .dat => 0x10#8
  | .blk => 0x20#8
  | .rsv6 => 0x40#8
  | .rsv7 => 0x80#8

/-- `flag(f, M)` (R9). -/
def flagSet (f : Byte) (m : Flag) : Bool := (f &&& flagMask m) != 0#8

/-- `has_seq(f)`: a sequence number is present (R43). -/
def hasSeq (f : Byte) : Bool := flagSet f .dat && !flagSet f .blk

/-- `has_ack(f)`: an acknowledgment number is present (R43). -/
def hasAck (f : Byte) : Bool := flagSet f .ack

/-- `has_pay(f)`: a payload is present (R43). -/
def hasPay (f : Byte) : Bool := flagSet f .dat || flagSet f .blk

/-- `seq_off(f)` (R43). -/
def seqOff : Nat := 6

/-- `ack_off(f)` (R43). -/
def ackOff (f : Byte) : Nat := if hasSeq f then 10 else 6

/-- `hdr(f)`: the header's length, and the payload's offset (R43). -/
def hdrLen (f : Byte) : Nat := 6 + (if hasSeq f then 4 else 0) + (if hasAck f then 4 else 0)

/-- `cap`: the most payload bytes a frame with these flags carries (R61). -/
def payloadCap (c : Config) (f : Byte) : Nat := c.buflen - hdrLen f

/-- The number of a result code (R131; DEDUCED that it is fixed, log entry 7). -/
def resultByte : ResultCode → Byte
  | .ok => 0#8
  | .version => 1#8
  | .short => 2#8
  | .checksum => 3#8
  | .blockTooLarge => 4#8
  | .cannotSend => 5#8
  | .cannotRecv => 6#8
  | .wrongFlag => 7#8
  | .ackDecreased => 8#8
  | .noAck => 9#8
  | .wrongAck => 10#8
  | .tooManyRetx => 11#8
  | .addrParse => 12#8
  | .unknown => 13#8

end Sys2Proof.Machine
end

