-- ==== Sys2Proof/Machine/Ops.lean ====
section
/-! DEFINITION. The named operations: buffers as memory (spec/20_memory.md R30 to R35), big-endian fields (R33), ending a
command (spec/00_scope.md R9, spec/60_exceptions.md R130), the reset event (spec/70_reset_and_hazards.md R142, R143), and
taking the host's next input (R7). -/

namespace Sys2Proof.Machine

/-! ### One buffer. `bg` gives the byte an unlisted offset reads as. -/

/-- The byte at an offset. -/
def Memory.read (bg : Nat → Byte) : Memory → Nat → Byte
  | [], a => bg a
  | (k, v) :: m, a => if k = a then v else Memory.read bg m a

/-- The buffer without a cell for an offset. -/
def Memory.erase (m : Memory) (a : Nat) : Memory := m.filter (fun cell => cell.1 != a)

/-- The buffer with a cell put before the first higher offset. -/
def Memory.insert : Memory → Nat → Byte → Memory
  | [], a, v => [(a, v)]
  | (k, x) :: m, a, v => if a < k then (a, v) :: (k, x) :: m else (k, x) :: Memory.insert m a v

/-- The buffer with a byte stored; no cell is kept for a byte an unlisted offset reads as. -/
def Memory.write (bg : Nat → Byte) (m : Memory) (a : Nat) (v : Byte) : Memory :=
  if v = bg a then Memory.erase m a else Memory.insert (Memory.erase m a) a v

/-- Bytes stored at rising offsets. -/
def Memory.writeAll (bg : Nat → Byte) (m : Memory) (a : Nat) : List Byte → Memory
  | [] => m
  | v :: vs => Memory.writeAll bg (Memory.write bg m a v) (a + 1) vs

/-- `n` bytes from an offset on. -/
def Memory.span (bg : Nat → Byte) (m : Memory) (a : Nat) : Nat → List Byte
  | 0 => []
  | n + 1 => Memory.read bg m a :: Memory.span bg m (a + 1) n

/-- The canonical form: offsets strictly rising and inside the buffer, no cell equal to what an unlisted offset reads as. -/
abbrev Memory.wf (bg : Nat → Byte) (size : Nat) (m : Memory) : Prop :=
  m.Pairwise (fun x y => x.1 < y.1) ∧ ∀ cell ∈ m, cell.1 < size ∧ cell.2 ≠ bg cell.1

/-! ### Big-endian fields -/

/-- The four bytes of a 32-bit value, most significant first (R33; PRESUMED by the spec, G4, log entry 9). -/
def be32 (v : Word) : List Byte :=
  [v.extractLsb' 24 8, v.extractLsb' 16 8, v.extractLsb' 8 8, v.extractLsb' 0 8]

/-- The 32-bit value of four bytes, most significant first (R33). -/
def ofBe32 (b0 b1 b2 b3 : Byte) : Word := b0 ++ b1 ++ b2 ++ b3

/-! ### The buffers of a state -/

/-- A buffer's cells. -/
def State.mem (s : State) : Buf → Memory
  | .txf => s.txf
  | .rxf => s.rxf
  | .pwin => s.pwin

/-- The state with a buffer's cells replaced. -/
def State.setMem (s : State) : Buf → Memory → State
  | .txf, m => { s with txf := m }
  | .rxf, m => { s with rxf := m }
  | .pwin, m => { s with pwin := m }

/-- The byte an offset of a buffer holds while nothing has written it since reset: a free value, fixed until the next
reset (R143). -/
def State.unwritten (c : Config) (s : State) (b : Buf) (a : Nat) : Byte := c.resetByte s.draw b a

/-- `MemRead(B, a, 1)` (R9). -/
def State.load (c : Config) (s : State) (b : Buf) (a : Nat) : Byte :=
  Memory.read (s.unwritten c b) (s.mem b) a

/-- `MemRead(B, a, 4)` (R9). -/
def State.loadWord (c : Config) (s : State) (b : Buf) (a : Nat) : Word :=
  ofBe32 (s.load c b a) (s.load c b (a + 1)) (s.load c b (a + 2)) (s.load c b (a + 3))

/-- `B[a..a+n)` (R9). -/
def State.bytes (c : Config) (s : State) (b : Buf) (a n : Nat) : List Byte :=
  Memory.span (s.unwritten c b) (s.mem b) a n

/-- `MemWrite(B, a, 1, v)` (R9). -/
def State.store (c : Config) (s : State) (b : Buf) (a : Nat) (v : Byte) : State :=
  s.setMem b (Memory.write (s.unwritten c b) (s.mem b) a v)

/-- Bytes stored at rising offsets of a buffer. -/
def State.storeAll (c : Config) (s : State) (b : Buf) (a : Nat) (vs : List Byte) : State :=
  s.setMem b (Memory.writeAll (s.unwritten c b) (s.mem b) a vs)

/-- `MemWrite(B, a, 4, v)` (R9). -/
def State.storeWord (c : Config) (s : State) (b : Buf) (a : Nat) (v : Word) : State :=
  s.storeAll c b a (be32 v)

/-! ### Ending a command, answering the host -/

/-- The command's last effect: `R[STATUS] <- code`. With an error code this is `raise` (R9, R12, R130, R135). -/
def State.finish (s : State) (code : ResultCode) : State := { s with status := resultByte code }

/-- The value a read returns to the host (R52). -/
def State.answer (s : State) (v : Word) : State := { s with result := some v }

/-- The reset event (R142, R143): every register at its reset value, every buffer byte unspecified anew; what the host
still has to do is not the block's and stays (DESIGN CHOICE, log entry 5). The new
contents are a free value of the reset count and of all the old contents, the unwritten bytes (the old draw) and the written
cells, and of nothing else (DESIGN CHOICE, log entry 2). -/
def State.afterReset (c : Config) (s : State) : State :=
  { State.reset with
    resets := s.resets + 1
    draw := c.resetDraw (s.resets + 1) s.draw s.txf s.rxf s.pwin
    pending := s.pending }

/-- The host's next input, and the state in which it is performed; none while nothing is pending. -/
def State.fetch (s : State) : Option (HostInput × State) :=
  match s.pending with
  | [] => none
  | i :: rest => some (i, { s with pending := rest, result := none })

/-- The state with a transaction word put before everything pending. -/
def State.place (s : State) (w : TWord) : State := { s with pending := .transaction w :: s.pending }

end Sys2Proof.Machine
end

