-- ==== Sys2Proof/Machine/Operands.lean ====
section
/-! DEFINITION. The register operands: reading and writing a register of the host interface
(spec/10_state.md R11, R12, R15, R16, R26; spec/44_host_access.md R94, R95). -/

namespace Sys2Proof.Machine

/-- A register as the host reads it: 8-bit registers zero-extended, `CMD` 0, `VERSION` and `BUFLEN` the configuration's
(R11, R12, R15, R95; DEDUCED that the three need no field, log entry 8). -/
def readReg (c : Config) (s : State) : Reg → Word
  | .cmd => 0#32
  | .status => s.status.setWidth 32
  | .csum => s.csum
  | .version => c.version.setWidth 32
  | .buflen => BitVec.ofNat 32 c.buflen
  | .txFlags => s.txFlags.setWidth 32
  | .txSeq => s.txSeq
  | .txAck => s.txAck
  | .txPlen => s.txPlen
  | .txPdone => s.txPdone
  | .txPoff => s.txPoff
  | .txLen => s.txLen
  | .rxLen => s.rxLen
  | .rxFlags => s.rxFlags.setWidth 32
  | .rxSeq => s.rxSeq
  | .rxAck => s.rxAck
  | .rxPoff => s.rxPoff
  | .rxPlen => s.rxPlen
  | .hoff => s.hoff
  | .hlen => s.hlen

/-- A host write of a register other than `CMD`: the eight writable ones store, `TX_FLAGS` its low 8 bits; a write to any
other is ignored (R11, R16, R94). -/
def writeReg (s : State) : Reg → Word → State
  | .txFlags, v => { s with txFlags := v.setWidth 8 }
  | .txSeq, v => { s with txSeq := v }
  | .txAck, v => { s with txAck := v }
  | .txPlen, v => { s with txPlen := v }
  | .txLen, v => { s with txLen := v }
  | .rxLen, v => { s with rxLen := v }
  | .hoff, v => { s with hoff := v }
  | .hlen, v => { s with hlen := v }
  | .cmd, _ | .status, _ | .csum, _ | .version, _ | .buflen, _ | .txPdone, _ | .txPoff, _
  | .rxFlags, _ | .rxSeq, _ | .rxAck, _ | .rxPoff, _ | .rxPlen, _ => s

/-- The register a number names, as the host reads it; reserved numbers read 0 (R26, R95). -/
def readNumber (c : Config) (s : State) (addr : Addr) : Word :=
  match regAt addr with
  | some r => readReg c s r
  | none => 0#32

/-- The register a number names, written by the host; writes to reserved numbers are ignored (R26, R94). -/
def writeNumber (s : State) (addr : Addr) (v : Word) : State :=
  match regAt addr with
  | some r => writeReg s r v
  | none => s

end Sys2Proof.Machine
end

