-- ==== Sys2Proof/Machine/Checksum.lean ====
section
/-! DEFINITION. The checksum commands HASH_TX and HASH_RX (spec/43_checksum.md R91, R92). -/

namespace Sys2Proof.Machine

/-- `Hash` of the span `HOFF`, `HLEN` of a buffer; the sum of the two is taken without wrap (R91). -/
def hashCommand (c : Config) (b : Buf) (s : State) : State :=
  if c.buflen < s.hoff.toNat + s.hlen.toNat then s.finish .unknown
  else { s with csum := c.hash (s.bytes c b s.hoff.toNat s.hlen.toNat) }.finish .ok

/-- `HASH_TX` (R91). -/
def execHashTx (s : State) : Host.Outcome State Fault Refusal := .next (hashCommand Config.active .txf s)

/-- `HASH_RX` (R92). -/
def execHashRx (s : State) : Host.Outcome State Fault Refusal := .next (hashCommand Config.active .rxf s)

end Sys2Proof.Machine
end

