-- ==== Sys2Proof/Machine/FrameBuild.lean ====
section
/-! DEFINITION. Frame construction: ENCODE (spec/40_encode.md) and APPEND_FIN (spec/42_append_fin.md). -/

namespace Sys2Proof.Machine

/-! ### ENCODE -/

/-- The block size gate: BLK set and the offered length above the capacity (R62). -/
def blockTooLarge (c : Config) (s : State) : Bool :=
  flagSet s.txFlags .blk && decide (payloadCap c s.txFlags < s.txPlen.toNat)

/-- `n`, the payload bytes placed in the frame (R63, R67). -/
def placedCount (c : Config) (s : State) : Nat :=
  if hasPay s.txFlags then min s.txPlen.toNat (payloadCap c s.txFlags) else 0

/-- `total`, the length of the frame (R60). -/
def frameLen (c : Config) (s : State) : Nat := hdrLen s.txFlags + placedCount c s

/-- The version and flags bytes (R60). -/
def putVersionFlags (c : Config) (s : State) : State :=
  (s.store c .txf 4 c.version).store c .txf 5 s.txFlags

/-- The sequence number, if the flags declare one (R60). -/
def putSeq (c : Config) (s : State) : State :=
  if hasSeq s.txFlags then s.storeWord c .txf seqOff s.txSeq else s

/-- The acknowledgment number, if the flags declare one (R60). -/
def putAck (c : Config) (s : State) : State :=
  if hasAck s.txFlags then s.storeWord c .txf (ackOff s.txFlags) s.txAck else s

/-- The first `n` bytes of the payload window, after the header (R60, R63). -/
def putPayload (c : Config) (s : State) : State :=
  s.storeAll c .txf (hdrLen s.txFlags) (s.bytes c .pwin 0 (placedCount c s))

/-- Everything after the checksum field, in the order of R60. -/
def putBody (c : Config) (s : State) : State := putPayload c (putAck c (putSeq c (putVersionFlags c s)))

/-- The checksum over `TXF[4..len)`, stored at `TXF[0..4)` and in `CSUM` (R65, R89). -/
def sealFrame (c : Config) (len : Nat) (s : State) : State :=
  let sum := c.hash (s.bytes c .txf 4 (len - 4))
  { s.storeWord c .txf 0 sum with csum := sum }

/-- The result registers of ENCODE (R17). -/
def setEncodeResults (c : Config) (s : State) : State :=
  { s with
    txPoff := BitVec.ofNat 32 (hdrLen s.txFlags)
    txPdone := BitVec.ofNat 32 (placedCount c s)
    txLen := BitVec.ofNat 32 (frameLen c s) }

/-- The command ENCODE (R60). -/
def encodeCommand (c : Config) (s : State) : State :=
  if blockTooLarge c s then s.finish .blockTooLarge
  else (setEncodeResults c (sealFrame c (frameLen c s) (putBody c s))).finish .ok

/-- `ENCODE` (R60). -/
def execEncode (s : State) : Host.Outcome State Fault Refusal := .next (encodeCommand Config.active s)

/-! ### APPEND_FIN -/

/-- Whether `TX_LEN` is the length of a frame (R81). -/
def usedLenLegal (c : Config) (s : State) : Bool :=
  decide (6 ≤ s.txLen.toNat) && decide (s.txLen.toNat ≤ c.buflen)

/-- FIN set in the frame's flags byte (R80). -/
def setFin (c : Config) (s : State) : State :=
  s.store c .txf 5 (s.load c .txf 5 ||| flagMask .fin)

/-- The command APPEND_FIN (R80, R81). -/
def appendFinCommand (c : Config) (s : State) : State :=
  if usedLenLegal c s then (sealFrame c s.txLen.toNat (setFin c s)).finish .ok
  else s.finish .unknown

/-- `APPEND_FIN` (R80). -/
def execAppendFin (s : State) : Host.Outcome State Fault Refusal := .next (appendFinCommand Config.active s)

end Sys2Proof.Machine
end

