-- ==== Sys2Proof/Machine/FrameCheck.lean ====
section
/-! DEFINITION. Frame validation and field extraction: DECODE (spec/41_decode.md). -/

namespace Sys2Proof.Machine

/-- The extraction from a frame of length `len` whose header fits: the five result registers (R76, R77). -/
def extractMessage (c : Config) (len : Nat) (s : State) : State :=
  let f := s.load c .rxf 5
  { s with
    rxFlags := f
    rxSeq := if hasSeq f then s.loadWord c .rxf seqOff else 0#32
    rxAck := if hasAck f then s.loadWord c .rxf (ackOff f) else 0#32
    rxPoff := BitVec.ofNat 32 (hdrLen f)
    rxPlen := if hasPay f then BitVec.ofNat 32 (len - hdrLen f) else 0#32 }

/-- The checks after the length checks, with the recomputed checksum already in `CSUM`: checksum, version, header
overrun, in this order (R71, R73, R74, R75). -/
def checkFrame (c : Config) (len : Nat) (s : State) : State :=
  if s.csum ≠ s.loadWord c .rxf 0 then s.finish .checksum
  else if s.load c .rxf 4 ≠ c.version then s.finish .version
  else if len < hdrLen (s.load c .rxf 5) then s.finish .short
  else (extractMessage c len s).finish .ok

/-- The command DECODE (R70, R72). -/
def decodeCommand (c : Config) (s : State) : State :=
  if c.buflen < s.rxLen.toNat then s.finish .unknown
  else if s.rxLen.toNat < 6 then s.finish .short
  else checkFrame c s.rxLen.toNat { s with csum := c.hash (s.bytes c .rxf 4 (s.rxLen.toNat - 4)) }

/-- `DECODE` (R70). -/
def execDecode (s : State) : Host.Outcome State Fault Refusal := .next (decodeCommand Config.active s)

end Sys2Proof.Machine
end

