-- ==== Sys2Proof/Machine/HostAccess.lean ====
section
/-! DEFINITION. The host's register and buffer accesses (spec/44_host_access.md R94 to R103). -/

namespace Sys2Proof.Machine

/-- `WRREG` (R94). A write to register 0 is a command (R53); no word decodes to this term with it. -/
def execWrreg (addr : Addr) (data : Word) (s : State) : Host.Outcome State Fault Refusal :=
  if addr = 0#24 then .refused (.writeToCmd data) else .next (writeNumber s addr data)

/-- `RDREG` (R95). -/
def execRdreg (addr : Addr) (s : State) : Host.Outcome State Fault Refusal :=
  .next (s.answer (readNumber Config.active s addr))

/-- One byte of a buffer written by the host; refused outside the buffer (R96, R98, R100, R103). -/
def hostStore (c : Config) (b : Buf) (addr : Addr) (data : Byte) (s : State) : Host.Outcome State Fault Refusal :=
  if inBuffer c b addr then .next (s.store c b addr.toNat data) else .refused (.outsideBuffer b addr)

/-- One byte of a buffer read by the host, zero-extended; refused outside the buffer (R97, R99, R101, R103). -/
def hostLoad (c : Config) (b : Buf) (addr : Addr) (s : State) : Host.Outcome State Fault Refusal :=
  if inBuffer c b addr then .next (s.answer ((s.load c b addr.toNat).setWidth 32))
  else .refused (.outsideBuffer b addr)

/-- `WRB.TXF` (R96). -/
def execWrbTxf (addr : Addr) (data : Byte) (s : State) : Host.Outcome State Fault Refusal :=
  hostStore Config.active .txf addr data s

/-- `RDB.TXF` (R97). -/
def execRdbTxf (addr : Addr) (s : State) : Host.Outcome State Fault Refusal :=
  hostLoad Config.active .txf addr s

/-- `WRB.RXF` (R98). -/
def execWrbRxf (addr : Addr) (data : Byte) (s : State) : Host.Outcome State Fault Refusal :=
  hostStore Config.active .rxf addr data s

/-- `RDB.RXF` (R99). -/
def execRdbRxf (addr : Addr) (s : State) : Host.Outcome State Fault Refusal :=
  hostLoad Config.active .rxf addr s

/-- `WRB.PWIN` (R100). -/
def execWrbPwin (addr : Addr) (data : Byte) (s : State) : Host.Outcome State Fault Refusal :=
  hostStore Config.active .pwin addr data s

/-- `RDB.PWIN` (R101). -/
def execRdbPwin (addr : Addr) (s : State) : Host.Outcome State Fault Refusal :=
  hostLoad Config.active .pwin addr s

end Sys2Proof.Machine
end

