-- ==== Sys2Proof/Machine/Reserved.lean ====
section
/-! DEFINITION. The reserved command (spec/30_encoding.md R54). -/

namespace Sys2Proof.Machine

/-- `CMD.RSVD` (R54): `STATUS` becomes `E_UNKNOWN` and nothing else changes. The codes 1 to 5 are no reserved codes (R53)
and no word decodes to this term with one of them. -/
def execCmdRsvd (code : Word) (s : State) : Host.Outcome State Fault Refusal :=
  if isReservedCode code then .next (s.finish .unknown) else .refused (.codeNotReserved code)

end Sys2Proof.Machine
end

