-- ==== Sys2Proof/Machine/Dispatch.lean ====
section
/-! DEFINITION. The dispatch: one arm per instruction. -/

namespace Sys2Proof.Machine

def exec (i : Instr) (s : State) : Host.Outcome State Fault Refusal :=
  match i with
  | .encode => Sys2Proof.Machine.execEncode s
  | .decode => Sys2Proof.Machine.execDecode s
  | .appendFin => Sys2Proof.Machine.execAppendFin s
  | .hashTx => Sys2Proof.Machine.execHashTx s
  | .hashRx => Sys2Proof.Machine.execHashRx s
  | .cmdRsvd code => Sys2Proof.Machine.execCmdRsvd code s
  | .wrreg addr data => Sys2Proof.Machine.execWrreg addr data s
  | .rdreg addr => Sys2Proof.Machine.execRdreg addr s
  | .wrbTxf addr data => Sys2Proof.Machine.execWrbTxf addr data s
  | .rdbTxf addr => Sys2Proof.Machine.execRdbTxf addr s
  | .wrbRxf addr data => Sys2Proof.Machine.execWrbRxf addr data s
  | .rdbRxf addr => Sys2Proof.Machine.execRdbRxf addr s
  | .wrbPwin addr data => Sys2Proof.Machine.execWrbPwin addr data s
  | .rdbPwin addr => Sys2Proof.Machine.execRdbPwin addr s

end Sys2Proof.Machine
end

