-- ==== Sys2Proof/Machine/Step.lean ====
section
/-! DEFINITION. One step of the machine (spec/00_scope.md R7): the host's next input is performed. -/

namespace Sys2Proof.Machine

/-- A transaction word performed: decoded and run, or refused where it is no transaction (R55, R103). -/
def runWord (w : TWord) (s : State) : Host.Outcome State Fault Refusal :=
  match decode Config.active w with
  | .ok i => exec i s
  | .error e => .refused (.notATransaction e)

/-- One step: the oldest pending input, a transaction or a reset (R7, R142). With nothing pending the block holds its
state: it never changes on its own (R7, R139, R151; DESIGN CHOICE, log entry 3). -/
def step (s : State) : Host.Outcome State Fault Refusal :=
  match s.fetch with
  | none => .next s
  | some (.transaction w, t) => runWord w t
  | some (.reset, t) => .next (t.afterReset Config.active)

/-- The state with a word of `nbits` bits, numbered as spec/opcode_table.json numbers it, as the host's next input. -/
def State.withFetchWord (s : State) (nbits w : Nat) : State := s.place (tableWord nbits w)

end Sys2Proof.Machine
end

