-- ==== Sys2Proof/Machine/Pseudo.lean ====
section
/-! DEFINITION. The pseudo-instructions of the spec's notation as lists of transactions (spec/30_encoding.md R58); the block
knows nothing of them. -/

namespace Sys2Proof.Machine

/-- `WR reg, value` (R57). -/
def writeTo (r : Reg) (v : Word) : Instr := .wrreg r.number v

/-- `SETMSG f, s, a` (R58). -/
def setMsg (f : Byte) (seq ack : Word) : List Instr :=
  [writeTo .txFlags (f.setWidth 32), writeTo .txSeq seq, writeTo .txAck ack]

/-- Byte writes of a buffer at rising offsets from one on. -/
def storeBytes (b : Buf) (o : Nat) : List Byte → List Instr
  | [] => []
  | v :: vs => writeByteOf b (BitVec.ofNat 24 o) v :: storeBytes b (o + 1) vs

/-- `LOADPAY` with an explicit offered length: the window takes the first `BUFLEN - 6` bytes (R58). -/
def loadPayOffering (c : Config) (payload : List Byte) (offered : Word) : List Instr :=
  storeBytes .pwin 0 (payload.take c.pwinSize) ++ [writeTo .txPlen offered]

/-- `LOADPAY b0 b1 ...` (R58). -/
def loadPay (c : Config) (payload : List Byte) : List Instr :=
  loadPayOffering c payload (BitVec.ofNat 32 payload.length)

/-- `LOADRX b0 b1 ...`, for at most `BUFLEN` bytes (R58). -/
def loadRx (datagram : List Byte) : List Instr :=
  storeBytes .rxf 0 datagram ++ [writeTo .rxLen (BitVec.ofNat 32 datagram.length)]

/-- Byte reads of `TXF`, each followed by the write of the byte read to the same offset of `RXF`. -/
def copyBack (o : Nat) : List Byte → List Instr
  | [] => []
  | v :: vs => .rdbTxf (BitVec.ofNat 24 o) :: .wrbRxf (BitVec.ofNat 24 o) v :: copyBack (o + 1) vs

/-- `LOOP` begun in a state: the host reads `TX_LEN` and copies that many bytes of `TXF` to `RXF` (R58). -/
def loopBack (c : Config) (s : State) : List Instr :=
  .rdreg (Reg.number .txLen) :: copyBack 0 (s.bytes c .txf 0 s.txLen.toNat) ++ [writeTo .rxLen s.txLen]

/-- `SEND` begun in a state: the host reads `TX_LEN` and that many bytes of `TXF` (R58). -/
def sendFrame (s : State) : List Instr :=
  .rdreg (Reg.number .txLen) :: (List.range s.txLen.toNat).map (fun o => .rdbTxf (BitVec.ofNat 24 o))

/-- Instructions as the host's inputs, in order. -/
def inputsOf (is : List Instr) : List HostInput := is.map (fun i => .transaction (encode i))

end Sys2Proof.Machine
end

