-- ==== Sys2Proof/Machine/HostProtocol.lean ====
section
/-! DEFINITION. The decisions of the host's protocol software (spec/50_host_protocol.md), as functions of the block's state
after a command. They are outside the block (R4, R24, R104): no step calls them and `State` holds none of their data.
What they choose where the document is silent stands in log entry 11. -/

namespace Sys2Proof.Machine

/-- The result code a `STATUS` byte stands for (R131). -/
def codeOf (b : Byte) : ResultCode :=
  ([.ok, .version, .short, .checksum, .blockTooLarge, .cannotSend, .cannotRecv, .wrongFlag, .ackDecreased, .noAck,
    .wrongAck, .tooManyRetx, .addrParse, .unknown] : List ResultCode).find? (fun r => resultByte r == b) |>.getD .unknown

/-! ### Bulk sender -/

/-- The remote endpoint (spec/00_scope.md glossary). -/
structure PeerAddress where
  /-- The address. -/
  address : Nat
  /-- The port. -/
  port : Nat
deriving DecidableEq, Repr

/-- The first step of both senders: resolving the peer; none stands for a malformed address (R107, R114). -/
def resolvePeer (peer : Option PeerAddress) : Except ResultCode PeerAddress :=
  match peer with
  | none => .error .addrParse
  | some p => .ok p

/-- The length the bulk sender offers: the payload's, or the largest word should it have 2^32 bytes or more, which no frame
holds either (R107; DESIGN CHOICE beyond 2^32 - 1, log entry 11). -/
def bulkOffered (payload : List Byte) : Word := BitVec.ofNat 32 (min payload.length (2 ^ 32 - 1))

/-- The transactions that build the bulk frame (R107); `bulkMove` says what follows. -/
def bulkOffer (c : Config) (payload : List Byte) : List Instr :=
  setMsg (flagMask .blk) 0#32 0#32 ++ loadPayOffering c payload (bulkOffered payload) ++ [.encode]

/-- What the bulk sender does after its ENCODE. -/
inductive BulkMove where
  /-- The operation ends with a result code: an oversized payload is terminal (R107, R127). -/
  | fail (code : ResultCode)
  /-- The frame is read out and handed to the transport (R107). -/
  | send (transactions : List Instr)
deriving DecidableEq, Repr

/-- The bulk sender's move after the ENCODE of `bulkOffer`: `E_BLOCK_TOO_LARGE` is returned, else the frame is sent (R107,
R127). -/
def bulkMove (s : State) : BulkMove :=
  if s.status = resultByte .blockTooLarge then .fail .blockTooLarge else .send (sendFrame s)

/-- The result of handing the bulk frame to the transport, which may fail (R107). -/
def bulkSent (accepted : Bool) : ResultCode := if accepted then .ok else .cannotSend

/-- The bulk sender's result once the reply is decoded (R108). -/
def bulkVerdict (payloadLen : Nat) (s : State) : ResultCode :=
  if s.status ≠ resultByte .ok then codeOf s.status
  else if flagSet s.rxFlags .ack && s.rxAck.toNat == payloadLen then .ok
  else .noAck

/-! ### Stream sender -/

/-- The bookkeeping of one stream (R111). -/
structure TransferState where
  /-- Cumulative bytes acknowledged. -/
  acked : Nat
  /-- Duplicate acknowledgments in a row. -/
  dups : Nat
  /-- The total payload length. -/
  total : Nat
deriving DecidableEq, Repr

/-- The bookkeeping at the start of a stream (R111). -/
def TransferState.start (total : Nat) : TransferState := { acked := 0, dups := 0, total := total }

/-- The bounds of the bookkeeping, for a host's `SEQNUM_MAX` of at most 2^32 - 1 (R111, R112). -/
def TransferState.bounded (seqnumMax : Fin (2 ^ 32)) (t : TransferState) : Bool :=
  decide (t.dups ≤ 10) && decide (t.total ≤ seqnumMax.val)

/-- The transactions that build the SYN frame (R114). -/
def synOffer : List Instr :=
  setMsg (flagMask .syn) 0#32 0#32 ++ [writeTo .txPlen 0#32, .encode]

/-- The result of the handshake once its reply is decoded (R114). -/
def handshakeVerdict (s : State) : ResultCode :=
  if s.status ≠ resultByte .ok then codeOf s.status
  else if !flagSet s.rxFlags .ack then .noAck
  else if s.rxAck ≠ 0#32 then .wrongAck
  else .ok

/-- The transactions that build the fragment at the confirmed offset (R113).
A reply above the total length is accepted too (R118, N14), and the spec does not say what remains unsent from such an offset
on: offering an empty payload, with `TX_PLEN` 0, is a DESIGN CHOICE (log entry 11). -/
def fragmentOffer (c : Config) (payload : List Byte) (t : TransferState) : List Instr :=
  setMsg (flagMask .dat) (BitVec.ofNat 32 t.acked) 0#32 ++ loadPay c (payload.drop t.acked) ++ [.encode]

/-- Whether the encoded fragment covers the last remaining byte and is marked by APPEND_FIN before it is sent (R113).
For an empty payload, of which the spec says nothing (N13), this is a DESIGN CHOICE (log entry 11): the steps are followed as
they read, so the fragment at offset 0 with no bytes counts as the last.
From an offset above the total length, of which the spec says nothing either (N14), no fragment counts as the last, and none is
marked: a DESIGN CHOICE (log entry 11). -/
def isLastFragment (t : TransferState) (s : State) : Bool := t.acked + s.txPdone.toNat == t.total

/-- What the stream sender does with a decoded reply. -/
inductive SenderMove where
  /-- The transfer fails with a result code. -/
  | fail (code : ResultCode)
  /-- The identical fragment is sent again, not encoded again (R117). -/
  | resend (t : TransferState)
  /-- The transfer is complete (R118). -/
  | complete
  /-- The next fragment is built (R118). -/
  | advance (t : TransferState)
deriving DecidableEq, Repr

/-- The stream sender's answer to a decoded reply, steps 6 to 10 in their order (R115 to R118).
For an empty payload, of which the spec says nothing (N13), keeping that order is a DESIGN CHOICE (log entry 11): a reply of 0
is a duplicate (step 8) before it could be complete (step 9). -/
def senderMove (t : TransferState) (s : State) : SenderMove :=
  if s.status ≠ resultByte .ok then .fail (codeOf s.status)
  else if !flagSet s.rxFlags .ack then .fail .wrongFlag
  else if s.rxAck.toNat < t.acked then .fail .ackDecreased
  else if s.rxAck.toNat = t.acked then
    if t.dups + 1 = 10 then .fail .tooManyRetx else .resend { t with dups := t.dups + 1 }
  else if s.rxAck.toNat = t.total then .complete
  else .advance { t with acked := s.rxAck.toNat, dups := 0 }

/-! ### Receiver -/

/-- The kind of a session (R123). -/
inductive SessionKind where
  | bulk | stream
deriving DecidableEq, Repr

/-- The receiver's bookkeeping (R122, R126). -/
structure ReceiveState where
  /-- The bound peer, if any. -/
  peer : Option PeerAddress
  /-- The kind of the session, once established. -/
  kind : Option SessionKind
  /-- The bytes received so far. -/
  received : List Byte
  /-- The capacity of the growable buffer. -/
  capacity : Nat
deriving DecidableEq, Repr

/-- The receiver's bookkeeping when a session begins (R126). -/
def ReceiveState.start : ReceiveState := { peer := none, kind := none, received := [], capacity := 1024 }

/-- The lock-on: the first datagram binds its sender, later ones from elsewhere are discarded (R122, C4). -/
def lockOn (r : ReceiveState) (sender : PeerAddress) : Option ReceiveState :=
  match r.peer with
  | none => some { r with peer := some sender }
  | some p => if p = sender then some r else none

/-- A capacity doubled until it holds what is needed, at most `fuel` times (R124, R126). -/
def grow : Nat → Nat → Nat → Nat
  | 0, capacity, _ => capacity
  | fuel + 1, capacity, needed => if needed ≤ capacity then capacity else grow fuel (2 * capacity) needed

/-- A payload appended, with the buffer grown where it would overflow (R124, R126). -/
def ReceiveState.append (r : ReceiveState) (payload : List Byte) : ReceiveState :=
  let needed := r.received.length + payload.length
  { r with received := r.received ++ payload, capacity := grow needed r.capacity needed }

/-- What the receiver does with a decoded datagram. -/
inductive ReceiverMove where
  /-- The datagram is faulty: the acknowledgment of the unchanged total is sent again (R121). -/
  | repeatAck (total : Nat)
  /-- The first packet is neither BLK nor SYN: the session is aborted (R123). -/
  | abort
  /-- The packet is accepted: the new bookkeeping, the number to acknowledge, and whether the session ends (R124, R125). -/
  | accept (r : ReceiveState) (ackNum : Nat) (ended : Bool)
  /-- A codec error for which the document names no reaction, `E_SHORT` or `E_VERSION` (N15). -/
  | unstated (code : ResultCode)
deriving DecidableEq, Repr

/-- The kind of session the first accepted packet opens (R123). -/
def classify (flags : Byte) : Option SessionKind :=
  if flagSet flags .blk then some .bulk else if flagSet flags .syn then some .stream else none

/-- The payload of the decoded message (R23). -/
def rxPayload (c : Config) (s : State) : List Byte := s.bytes c .rxf s.rxPoff.toNat s.rxPlen.toNat

/-- The packet accepted in a session of a kind (R124, R125). -/
def acceptPacket (c : Config) (r : ReceiveState) (kind : SessionKind) (s : State) : ReceiverMove :=
  let r' := { r with kind := some kind }.append (rxPayload c s)
  .accept r' r'.received.length (kind == .bulk || flagSet s.rxFlags .fin)

/-- The receiver's answer to a decoded datagram from its peer, steps 3 to 6 (R121, R123 to R125). -/
def receiverMove (c : Config) (r : ReceiveState) (s : State) : ReceiverMove :=
  if s.status = resultByte .checksum then .repeatAck r.received.length
  else if s.status ≠ resultByte .ok then .unstated (codeOf s.status)
  else if s.rxSeq.toNat ≠ r.received.length then .repeatAck r.received.length
  else
    match r.kind with
    | some k => acceptPacket c r k s
    | none =>
      match classify s.rxFlags with
      | some k => acceptPacket c r k s
      | none => .abort

/-- The transactions that build an acknowledgment of a number of bytes (R121, R124). -/
def ackOffer (ackNum : Nat) : List Instr :=
  setMsg (flagMask .ack) 0#32 (BitVec.ofNat 32 ackNum) ++ [.encode]

end Sys2Proof.Machine
end

