-- ==== Sys2Proof/Machine/FrameSpec.lean ====
section
/-! DEFINITION. The codec as pure functions of byte sequences, as the spec states them beside the commands: the valid frame
(spec/30_encoding.md R51), `encode(f, s, a, P)` (spec/40_encode.md R68) and `decode(F)` (spec/41_decode.md R79). The
commands do not call them; claims compare the commands with them. -/

namespace Sys2Proof.Machine

/-- The byte at an offset of a byte sequence. -/
def byteAt (bytes : List Byte) (o : Nat) : Byte := bytes.getD o 0#8

/-- The big-endian 32-bit value at an offset of a byte sequence. -/
def wordAt (bytes : List Byte) (o : Nat) : Word :=
  ofBe32 (byteAt bytes o) (byteAt bytes (o + 1)) (byteAt bytes (o + 2)) (byteAt bytes (o + 3))

/-- The header of a frame after its checksum field, followed by a payload: `body` of R68. -/
def pureBody (c : Config) (f : Byte) (seq ack : Word) (payload : List Byte) : List Byte :=
  [c.version, f] ++ (if hasSeq f then be32 seq else []) ++ (if hasAck f then be32 ack else []) ++ payload

/-- A body with its checksum before it (R68). -/
def pureFrame (c : Config) (body : List Byte) : List Byte := be32 (c.hash body) ++ body

/-- `encode(f, s, a, P)`: the frame and the number of payload bytes in it, or the block size error (R68). -/
def pureEncode (c : Config) (f : Byte) (seq ack : Word) (payload : List Byte) :
    Except ResultCode (List Byte × Nat) :=
  if hasPay f ∧ flagSet f .blk ∧ c.buflen - hdrLen f < payload.length then .error .blockTooLarge
  else
    let n := if hasPay f then min payload.length (c.buflen - hdrLen f) else 0
    .ok (pureFrame c (pureBody c f seq ack (payload.take n)), n)

/-- The decoded message (R23). -/
structure Message where
  /-- The flags byte as received. -/
  flags : Byte
  /-- The sequence number, 0 when absent. -/
  seq : Word
  /-- The acknowledgment number, 0 when absent. -/
  ack : Word
  /-- The payload, empty when the flags declare none. -/
  payload : List Byte
deriving DecidableEq, Repr

/-- `decode(F)` for a byte sequence no longer than `BUFLEN` (R79). -/
def pureDecode (c : Config) (frame : List Byte) : Except ResultCode Message :=
  if frame.length < 6 then .error .short
  else if wordAt frame 0 ≠ c.hash (frame.drop 4) then .error .checksum
  else if byteAt frame 4 ≠ c.version then .error .version
  else
    let f := byteAt frame 5
    if frame.length < hdrLen f then .error .short
    else .ok
      { flags := f
        seq := if hasSeq f then wordAt frame seqOff else 0#32
        ack := if hasAck f then wordAt frame (ackOff f) else 0#32
        payload := if hasPay f then frame.drop (hdrLen f) else [] }

/-- A valid frame (R51). -/
def ValidFrame (c : Config) (frame : List Byte) : Prop :=
  6 ≤ frame.length ∧ frame.length ≤ c.buflen ∧ wordAt frame 0 = c.hash (frame.drop 4) ∧
    byteAt frame 4 = c.version ∧ hdrLen (byteAt frame 5) ≤ frame.length

end Sys2Proof.Machine
end

