-- ==== Sys2Proof/Safety.lean ====
section
/-! DEFINITION. What claims speak of: the invariant of the block (spec/10_state.md R17, R18, R27, spec/60_exceptions.md
R131) and the agreement of two states. -/

namespace Sys2Proof.Machine

/-- The codes the block itself writes to `STATUS` (R131). -/
def blockCodes : List Byte := [0#8, 1#8, 2#8, 3#8, 4#8, 13#8]

/-- The result registers of ENCODE: still at reset, or those of some frame (R17, R143). -/
def TxResultsCoherent (c : Config) (s : State) : Prop :=
  (s.txPoff = 0#32 ∧ s.txPdone = 0#32) ∨
    ((s.txPoff = 6#32 ∨ s.txPoff = 10#32 ∨ s.txPoff = 14#32) ∧ s.txPoff.toNat + s.txPdone.toNat ≤ c.buflen)

/-- The result registers of DECODE: still at reset, or those of some decoded frame (R18, R143). -/
def RxResultsCoherent (c : Config) (s : State) : Prop :=
  (s.rxFlags = 0#8 ∧ s.rxSeq = 0#32 ∧ s.rxAck = 0#32 ∧ s.rxPoff = 0#32 ∧ s.rxPlen = 0#32) ∨
    (s.rxPoff.toNat = hdrLen s.rxFlags ∧ s.rxPoff.toNat + s.rxPlen.toNat ≤ c.buflen ∧
      (hasSeq s.rxFlags = false → s.rxSeq = 0#32) ∧ (hasAck s.rxFlags = false → s.rxAck = 0#32) ∧
      (hasPay s.rxFlags = false → s.rxPlen = 0#32))

/-- The invariant: the buffers are in canonical form, `STATUS` is a code the block writes, and the result registers are
coherent. -/
structure Inv (c : Config) (s : State) : Prop where
  /-- Every buffer is in canonical form. -/
  buffers : ∀ b : Buf, Memory.wf (s.unwritten c b) (c.bufSize b) (s.mem b)
  /-- `STATUS` is one of 0, 1, 2, 3, 4, 13. -/
  statusCode : s.status ∈ blockCodes
  /-- The result registers of ENCODE. -/
  txResults : TxResultsCoherent c s
  /-- The result registers of DECODE. -/
  rxResults : RxResultsCoherent c s

/-- Two states hold the same bytes in a buffer. -/
def SameBytes (c : Config) (b : Buf) (s t : State) : Prop := ∀ a, s.load c b a = t.load c b a

/-- The step answers a next state. -/
def Answers (o : Host.Outcome State Fault Refusal) : Prop := ∃ t, o = .next t

/-- The outcome is a refusal. -/
def Refuses (o : Host.Outcome State Fault Refusal) : Prop := ∃ r, o = .refused r

/-- The five commands and the reserved one: the instructions a write to `CMD` starts (R53, R54). -/
def isCommand : Instr → Bool
  | .encode | .decode | .appendFin | .hashTx | .hashRx | .cmdRsvd _ => true
  | .wrreg _ _ | .rdreg _ | .wrbTxf _ _ | .rdbTxf _ | .wrbRxf _ _ | .rdbRxf _ | .wrbPwin _ _ | .rdbPwin _ => false

end Sys2Proof.Machine
end

