-- ==== Sys2Proof/Certificates/Slice0/Obligations.lean ====
section
/-! DEFINITION. The statements for the provers, from the spec's numbered rules. All are about the configuration
`Config.active`, of which nothing is known beyond its type, so each holds for every legal configuration (R5). -/

open Sys2Proof Sys2Proof.Machine

/-! ### Words the statements use -/

/-- The value the host reads at a register number, written out from the table of R11. -/
def Sys2Proof.Claims.registerView (s : State) (addr : Addr) : Word :=
  match addr.toNat with
  | 0x01 => s.status.setWidth 32
  | 0x02 => s.csum
  | 0x03 => Config.active.version.setWidth 32
  | 0x04 => BitVec.ofNat 32 Config.active.buflen
  | 0x05 => s.txFlags.setWidth 32
  | 0x06 => s.txSeq
  | 0x07 => s.txAck
  | 0x08 => s.txPlen
  | 0x09 => s.txPdone
  | 0x0A => s.txPoff
  | 0x0B => s.txLen
  | 0x0C => s.rxLen
  | 0x0D => s.rxFlags.setWidth 32
  | 0x0E => s.rxSeq
  | 0x0F => s.rxAck
  | 0x10 => s.rxPoff
  | 0x11 => s.rxPlen
  | 0x12 => s.hoff
  | 0x13 => s.hlen
  | _ => 0#32

/-- The state after a host write of a register number other than 0, written out from R94. -/
def Sys2Proof.Claims.registerWritten (s : State) (addr : Addr) (v : Word) : State :=
  match addr.toNat with
  | 0x05 => { s with txFlags := v.extractLsb' 0 8 }
  | 0x06 => { s with txSeq := v }
  | 0x07 => { s with txAck := v }
  | 0x08 => { s with txPlen := v }
  | 0x0B => { s with txLen := v }
  | 0x0C => { s with rxLen := v }
  | 0x12 => { s with hoff := v }
  | 0x13 => { s with hlen := v }
  | _ => s

/-- The word is no host transaction (R55). -/
def Sys2Proof.Claims.ReservedWord (w : TWord) : Prop :=
  (w.kind ≠ 1#4 ∧ w.kind ≠ 2#4) ∨
  3 < w.space.toNat ∨
  ((w.space = 1#4 ∨ w.space = 2#4) ∧ Config.active.buflen ≤ w.addr.toNat) ∨
  (w.space = 3#4 ∧ Config.active.buflen - 6 ≤ w.addr.toNat) ∨
  (w.kind = 1#4 ∧ w.space ≠ 0#4 ∧ w.dataUpper ≠ 0#24) ∨
  (w.kind = 2#4 ∧ w.data ≠ 0#32)

/-- The bytes received: `RXF[0..RX_LEN)`. -/
def Sys2Proof.Claims.received (s : State) : List Byte := s.bytes Config.active .rxf 0 s.rxLen.toNat

/-- The checksum DECODE recomputes: `Hash(RXF[4..RX_LEN))` (R73). -/
def Sys2Proof.Claims.recomputed (s : State) : Word :=
  Config.active.hash (s.bytes Config.active .rxf 4 (s.rxLen.toNat - 4))

/-- The instruction, run on a state in which `addr` lies in the buffer, stores exactly one byte there: the byte reads back,
every other byte of every buffer reads as before, and nothing outside the buffers changes. -/
def Sys2Proof.Claims.StoresOneByte (b : Buf) (addr : Addr) (v : Byte) (i : Instr) : Prop :=
  ∀ s : State, ∃ t, exec i s = .next t ∧
    t.load Config.active b addr.toNat = v ∧
    (∀ (b' : Buf) (x : Nat), b' ≠ b ∨ x ≠ addr.toNat → t.load Config.active b' x = s.load Config.active b' x) ∧
    { t with txf := s.txf, rxf := s.rxf, pwin := s.pwin } = s

/-- The sender's answers to replies that come one after another, until one of them is no resend (R117). -/
def Sys2Proof.Claims.afterReplies (t : TransferState) : List State → SenderMove
  | [] => .resend t
  | s :: rest =>
    match senderMove t s with
    | .resend t' => Sys2Proof.Claims.afterReplies t' rest
    | move => move

open Sys2Proof.Claims

/-! ### Encodings and the step -/

/-- R52 to R56: the word of every well-formed instruction decodes to that instruction, with every operand. -/
def Obligations.DecodeEncodeRoundTrip : Prop :=
  ∀ i : Instr, i.WellFormed Config.active → decode Config.active (encode i) = .ok i

/-- R52 to R56: a word that decodes is the word of a well-formed instruction, so each transaction word has one meaning. -/
def Obligations.EncodeDecodeRoundTrip : Prop :=
  ∀ (w : TWord) (i : Instr), decode Config.active w = .ok i → i.WellFormed Config.active ∧ encode i = w

/-- R53, R54, R56 and the words of spec/95_test_vectors.md: one word for each row of the opcode table. -/
def Obligations.SpecWordsDecode : Prop :=
  decode Config.active 0x1000000000000001#64 = .ok .encode ∧
  decode Config.active 0x1000000000000002#64 = .ok .decode ∧
  decode Config.active 0x1000000000000003#64 = .ok .appendFin ∧
  decode Config.active 0x1000000000000004#64 = .ok .hashTx ∧
  decode Config.active 0x1000000000000005#64 = .ok .hashRx ∧
  decode Config.active 0x1000000000000101#64 = .ok (.cmdRsvd 0x101#32) ∧
  decode Config.active 0x1000000500000132#64 = .ok (.wrreg 0x05#24 0x132#32) ∧
  decode Config.active 0x20FFFFFF00000000#64 = .ok (.rdreg 0xFFFFFF#24) ∧
  decode Config.active 0x1100000500000014#64 = .ok (.wrbTxf 5#24 0x14#8) ∧
  decode Config.active 0x2100000C00000000#64 = .ok (.rdbTxf 12#24) ∧
  decode Config.active 0x1200000900000007#64 = .ok (.wrbRxf 9#24 0x07#8) ∧
  decode Config.active 0x2200000600000000#64 = .ok (.rdbRxf 6#24) ∧
  decode Config.active 0x1300000700000047#64 = .ok (.wrbPwin 7#24 0x47#8) ∧
  decode Config.active 0x2300000000000000#64 = .ok (.rdbPwin 0#24)

/-- R55, R103: a step is refused exactly when the host's next input is a reserved word. -/
def Obligations.StepRefusesExactlyReservedWords : Prop :=
  ∀ s : State, Refuses (step s) ↔ ∃ w rest, s.pending = .transaction w :: rest ∧ ReservedWord w

/-- R130, R103: `exec` answers a next state for exactly the well-formed instructions, in every state; it refuses every
other term (the refusal of ill-formed terms is the model's, log entry 6). -/
def Obligations.ExecAnswersExactlyWellFormed : Prop :=
  ∀ (i : Instr) (s : State),
    (Answers (exec i s) ↔ i.WellFormed Config.active) ∧ (Refuses (exec i s) ↔ ¬ i.WellFormed Config.active)

/-- R7, R52: when the host's next input is a word that decodes to an instruction, the step runs it, with the input taken
from the queue and the last result cleared (log entries 3 and 4). -/
def Obligations.StepRunsDecodedInstruction : Prop :=
  ∀ (s : State) (w : TWord) (rest : List HostInput) (i : Instr),
    s.pending = .transaction w :: rest → decode Config.active w = .ok i →
      step s = exec i { s with pending := rest, result := none }

/-- R7, R139, R151: with nothing pending the block holds its state (the idle step is the model's, log entry 3). -/
def Obligations.StepWithoutInputHoldsState : Prop :=
  ∀ s : State, s.pending = [] → step s = .next s

/-! ### Reset -/

/-- R143: what the reset event leaves, from any state: every register number reads 0 but `VERSION` and `BUFLEN`; a buffer
byte holds the free value of the new draw (log entry 2); what the host has still to do stays (log entry 5). -/
def Obligations.ResetEventState : Prop :=
  ∀ (s : State) (rest : List HostInput), s.pending = .reset :: rest →
    ∃ t, step s = .next t ∧ t.pending = rest ∧
      (∀ addr : Addr, registerView t addr =
        if addr = 0x03#24 then Config.active.version.setWidth 32
        else if addr = 0x04#24 then BitVec.ofNat 32 Config.active.buflen else 0#32) ∧
      (∀ (b : Buf) (x : Nat), t.load Config.active b x = Config.active.resetByte t.draw b x)

/-- R25: the state of the model right after reset reads the "reset" column of R11, whatever the host will do. -/
def Obligations.ResetRegisterValues : Prop :=
  ∀ (inputs : List HostInput) (addr : Addr), registerView { State.reset with pending := inputs } addr =
    if addr = 0x03#24 then Config.active.version.setWidth 32
    else if addr = 0x04#24 then BitVec.ofNat 32 Config.active.buflen else 0#32

/-! ### Invariants -/

/-- R17, R18, R131, R143: the invariant holds right after reset. -/
def Obligations.ResetHasInvariant : Prop := Inv Config.active State.reset

/-- R17, R18, R27, R31, R131: every step keeps the invariant, from every state that has it. -/
def Obligations.StepKeepsInvariant : Prop :=
  ∀ s t : State, Inv Config.active s → step s = .next t → Inv Config.active t

/-- The model's memory (R30): two buffers in canonical form that read alike are equal data. -/
def Obligations.EqualReadsAreEqualData : Prop :=
  ∀ (bg : Nat → Byte) (size : Nat) (m m' : Memory), Memory.wf bg size m → Memory.wf bg size m' →
    (∀ a, Memory.read bg m a = Memory.read bg m' a) → m = m'

/-! ### Host accesses -/

/-- R95, R11, R26: `RDREG` returns the register, and changes nothing. -/
def Obligations.RdregReturnsRegister : Prop :=
  ∀ (addr : Addr) (s : State), exec (.rdreg addr) s = .next { s with result := some (registerView s addr) }

/-- R94: `WRREG` of any register but `CMD` stores in the eight writable ones, and is ignored by every other. -/
def Obligations.WrregWritesRegister : Prop :=
  ∀ (addr : Addr) (v : Word) (s : State), addr ≠ 0#24 →
    exec (.wrreg addr v) s = .next (registerWritten s addr v)

/-- R11, R94, R95: after a write, the register written reads what it stores (8 bits in `TX_FLAGS`, nothing in a read-only
or reserved one), and every other register reads as before. -/
def Obligations.WriteThenReadRegister : Prop :=
  ∀ (addr : Addr) (v : Word) (s : State), addr ≠ 0#24 →
    ∃ t, exec (.wrreg addr v) s = .next t ∧ ∀ x : Addr, registerView t x =
      if x = addr then
        (if addr = 0x05#24 then v &&& 0xFF#32
         else if addr ∈ [0x06#24, 0x07#24, 0x08#24, 0x0B#24, 0x0C#24, 0x12#24, 0x13#24] then v
         else registerView s addr)
      else registerView s x

/-- R15: `VERSION` and `BUFLEN` read the configuration in every state, and a write to them changes nothing. -/
def Obligations.ConstantRegisters : Prop :=
  ∀ (s : State) (v : Word),
    exec (.rdreg 0x03#24) s = .next { s with result := some (Config.active.version.setWidth 32) } ∧
    (∃ n : Word, n.toNat = Config.active.buflen ∧ exec (.rdreg 0x04#24) s = .next { s with result := some n }) ∧
    exec (.wrreg 0x03#24 v) s = .next s ∧ exec (.wrreg 0x04#24 v) s = .next s

/-- R26: reserved register numbers read 0 and ignore writes. -/
def Obligations.ReservedRegisterNumbers : Prop :=
  ∀ (addr : Addr) (v : Word) (s : State), 0x14 ≤ addr.toNat →
    exec (.rdreg addr) s = .next { s with result := some 0#32 } ∧ exec (.wrreg addr v) s = .next s

/-- R96, R98, R100: a byte write of a buffer stores exactly one byte. -/
def Obligations.ByteWritesStoreOneByte : Prop :=
  (∀ (addr : Addr) (v : Byte), addr.toNat < Config.active.buflen → StoresOneByte .txf addr v (.wrbTxf addr v)) ∧
  (∀ (addr : Addr) (v : Byte), addr.toNat < Config.active.buflen → StoresOneByte .rxf addr v (.wrbRxf addr v)) ∧
  (∀ (addr : Addr) (v : Byte), addr.toNat < Config.active.buflen - 6 →
    StoresOneByte .pwin addr v (.wrbPwin addr v))

/-- R97, R99, R101: a byte read of a buffer returns the byte, zero-extended, and changes nothing. -/
def Obligations.ByteReadsReturnByte : Prop :=
  ∀ (addr : Addr) (s : State),
    (addr.toNat < Config.active.buflen → exec (.rdbTxf addr) s =
      .next { s with result := some ((s.load Config.active .txf addr.toNat).setWidth 32) }) ∧
    (addr.toNat < Config.active.buflen → exec (.rdbRxf addr) s =
      .next { s with result := some ((s.load Config.active .rxf addr.toNat).setWidth 32) }) ∧
    (addr.toNat < Config.active.buflen - 6 → exec (.rdbPwin addr) s =
      .next { s with result := some ((s.load Config.active .pwin addr.toNat).setWidth 32) })

/-- R103: a buffer access is refused by name exactly when its offset lies at or beyond the buffer's size. -/
def Obligations.BufferAccessOutsideRefused : Prop :=
  ∀ (addr : Addr) (v : Byte) (s : State),
    (exec (.wrbTxf addr v) s = .refused (.outsideBuffer .txf addr) ↔ Config.active.buflen ≤ addr.toNat) ∧
    (exec (.rdbTxf addr) s = .refused (.outsideBuffer .txf addr) ↔ Config.active.buflen ≤ addr.toNat) ∧
    (exec (.wrbRxf addr v) s = .refused (.outsideBuffer .rxf addr) ↔ Config.active.buflen ≤ addr.toNat) ∧
    (exec (.rdbRxf addr) s = .refused (.outsideBuffer .rxf addr) ↔ Config.active.buflen ≤ addr.toNat) ∧
    (exec (.wrbPwin addr v) s = .refused (.outsideBuffer .pwin addr) ↔ Config.active.buflen - 6 ≤ addr.toNat) ∧
    (exec (.rdbPwin addr) s = .refused (.outsideBuffer .pwin addr) ↔ Config.active.buflen - 6 ≤ addr.toNat)

/-- R12, R21, R102: a host access other than a write to `CMD` changes neither `STATUS` nor `CSUM` nor any register only
the engine writes. -/
def Obligations.HostAccessesKeepEngineRegisters : Prop :=
  ∀ (i : Instr) (s t : State), isCommand i = false → exec i s = .next t →
    t.status = s.status ∧ t.csum = s.csum ∧ t.txPdone = s.txPdone ∧ t.txPoff = s.txPoff ∧
    t.rxFlags = s.rxFlags ∧ t.rxSeq = s.rxSeq ∧ t.rxAck = s.rxAck ∧ t.rxPoff = s.rxPoff ∧ t.rxPlen = s.rxPlen

/-! ### Rules over all commands -/

/-- R21: no command reads `STATUS`: its outcome is the same whatever `STATUS` held. -/
def Obligations.CommandsDoNotReadStatus : Prop :=
  ∀ (i : Instr) (s : State) (old : Byte), isCommand i = true → exec i { s with status := old } = exec i s

/-- R16, R18, R19, R13: no command writes an operand register, `RXF` or `PWIN`. -/
def Obligations.CommandsKeepOperands : Prop :=
  ∀ (i : Instr) (s t : State), isCommand i = true → exec i s = .next t →
    t.txFlags = s.txFlags ∧ t.txSeq = s.txSeq ∧ t.txAck = s.txAck ∧ t.txPlen = s.txPlen ∧ t.rxLen = s.rxLen ∧
    t.hoff = s.hoff ∧ t.hlen = s.hlen ∧ t.rxf = s.rxf ∧ t.pwin = s.pwin ∧
    t.resets = s.resets ∧ t.draw = s.draw ∧ t.pending = s.pending ∧ t.result = s.result

/-- R131, R132: the result codes each command can write, from any state. -/
def Obligations.ResultCodesByCommand : Prop :=
  ∀ s : State,
    (∃ t, exec .encode s = .next t ∧ t.status ∈ [0#8, 4#8]) ∧
    (∃ t, exec .decode s = .next t ∧ t.status ∈ [0#8, 1#8, 2#8, 3#8, 13#8]) ∧
    (∃ t, exec .appendFin s = .next t ∧ t.status ∈ [0#8, 13#8]) ∧
    (∃ t, exec .hashTx s = .next t ∧ t.status ∈ [0#8, 13#8]) ∧
    (∃ t, exec .hashRx s = .next t ∧ t.status ∈ [0#8, 13#8])

/-- R54: a write to `CMD` of any value but 1 to 5 is the reserved command, which sets `STATUS` to `E_UNKNOWN` and changes
nothing else. -/
def Obligations.ReservedCommandResult : Prop :=
  ∀ (code : Word) (s : State), code ∉ [1#32, 2#32, 3#32, 4#32, 5#32] →
    decode Config.active (packWord 1#4 0#4 0#24 code) = .ok (.cmdRsvd code) ∧
      exec (.cmdRsvd code) s = .next { s with status := 13#8 }

/-- R13, R31: a byte of a buffer changes in a step only by reset, by the host's write of that byte, or, in `TXF`, by a
successful ENCODE inside the frame or an APPEND_FIN in the checksum and flags bytes. -/
def Obligations.OnlyTheseInputsChangeAByte : Prop :=
  ∀ (s t : State) (b : Buf) (x : Nat), step s = .next t → t.load Config.active b x ≠ s.load Config.active b x →
    ∃ input rest, s.pending = input :: rest ∧
      (input = .reset ∨
        ∃ w i, input = .transaction w ∧ decode Config.active w = .ok i ∧
          ((∃ addr v, i = writeByteOf b addr v ∧ addr.toNat = x) ∨
            (b = .txf ∧ i = .encode ∧ t.status = 0#8 ∧ x < t.txLen.toNat) ∨
            (b = .txf ∧ i = .appendFin ∧ t.status = 0#8 ∧ (x < 4 ∨ x = 5))))

/-! ### The layout -/

/-- R43: the layout function, for every flags byte, with the header lengths of R44's table. -/
def Obligations.HeaderShapes : Prop :=
  seqOff = 6 ∧ ∀ f : Byte,
    let dat := f.getLsbD 4
    let blk := f.getLsbD 5
    let ack := f.getLsbD 1
    hasSeq f = (dat && !blk) ∧ hasAck f = ack ∧ hasPay f = (dat || blk) ∧
    hdrLen f = (match dat, blk, ack with
      | false, false, false => 6
      | false, false, true => 10
      | true, false, false => 10
      | true, false, true => 14
      | _, true, false => 6
      | _, true, true => 10) ∧
    (hasAck f = true → ackOff f = if dat && !blk then 10 else 6)

/-! ### ENCODE -/

/-- R62: the block size gate. With BLK set and more payload offered than fits: `E_BLOCK_TOO_LARGE`, and nothing else is
written; with what fits, success, and a frame of `BUFLEN` bytes when it fits exactly. -/
def Obligations.BlockSizeGate : Prop :=
  ∀ s : State, flagSet s.txFlags .blk = true →
    (Config.active.buflen - hdrLen s.txFlags < s.txPlen.toNat →
      exec .encode s = .next { s with status := 4#8 }) ∧
    (s.txPlen.toNat ≤ Config.active.buflen - hdrLen s.txFlags →
      ∃ t, exec .encode s = .next t ∧ t.status = 0#8 ∧ t.txPdone = s.txPlen ∧
        (s.txPlen.toNat = Config.active.buflen - hdrLen s.txFlags → t.txLen.toNat = Config.active.buflen))

/-- R60, R64, R65: ENCODE, field by field. Past the size gate: version, flags, the declared numbers at their offsets, the
payload, the checksum over what was written, the result registers; `TXF` beyond the frame and everything else unchanged. At
the gate: `STATUS` only. -/
def Obligations.EncodeWritesFrame : Prop :=
  ∀ s : State,
    let f := s.txFlags
    let hdr := hdrLen f
    let n := if hasPay f then min s.txPlen.toNat (Config.active.buflen - hdr) else 0
    let tooLarge := flagSet f .blk = true ∧ Config.active.buflen - hdr < s.txPlen.toNat
    (tooLarge → exec .encode s = .next { s with status := 4#8 }) ∧
    (¬tooLarge → ∃ t, exec .encode s = .next t ∧
      t.load Config.active .txf 4 = Config.active.version ∧
      t.load Config.active .txf 5 = f ∧
      (hasSeq f = true → t.loadWord Config.active .txf 6 = s.txSeq) ∧
      (hasAck f = true → t.loadWord Config.active .txf (if hasSeq f then 10 else 6) = s.txAck) ∧
      (∀ i, i < n → t.load Config.active .txf (hdr + i) = s.load Config.active .pwin i) ∧
      t.loadWord Config.active .txf 0 = Config.active.hash (t.bytes Config.active .txf 4 (hdr + n - 4)) ∧
      (∀ x, hdr + n ≤ x → t.load Config.active .txf x = s.load Config.active .txf x) ∧
      { t with txf := s.txf } =
        { s with
          txPoff := BitVec.ofNat 32 hdr, txPdone := BitVec.ofNat 32 n, txLen := BitVec.ofNat 32 (hdr + n),
          csum := t.loadWord Config.active .txf 0, status := 0#8 })

/-- R63: a payload under DAT without BLK is truncated to the capacity, never refused; the bytes placed are the first bytes
of `PWIN`, and no more than it holds. -/
def Obligations.EncodeTruncatesDat : Prop :=
  ∀ s : State, flagSet s.txFlags .dat = true → flagSet s.txFlags .blk = false →
    ∃ t, exec .encode s = .next t ∧ t.status = 0#8 ∧
      t.txPdone.toNat = min s.txPlen.toNat (Config.active.buflen - hdrLen s.txFlags) ∧
      t.txPdone.toNat ≤ Config.active.buflen - 6 ∧
      t.txLen.toNat = hdrLen s.txFlags + t.txPdone.toNat ∧
      (Config.active.buflen - hdrLen s.txFlags < s.txPlen.toNat → t.txLen.toNat = Config.active.buflen) ∧
      ∀ i, i < t.txPdone.toNat →
        t.load Config.active .txf (hdrLen s.txFlags + i) = s.load Config.active .pwin i

/-- R68: ENCODE computes the pure function `encode(f, s, a, P)`, for every payload of the offered length whose first bytes
the window holds. -/
def Obligations.EncodeComputesPureFunction : Prop :=
  ∀ (s : State) (payload : List Byte), payload.length = s.txPlen.toNat →
    (∀ i, i < payload.length → i < Config.active.buflen - 6 → s.load Config.active .pwin i = byteAt payload i) →
    match pureEncode Config.active s.txFlags s.txSeq s.txAck payload with
    | .error code => exec .encode s = .next { s with status := resultByte code }
    | .ok (frame, n) =>
      ∃ t, exec .encode s = .next t ∧ t.bytes Config.active .txf 0 frame.length = frame ∧
        (∀ x, frame.length ≤ x → t.load Config.active .txf x = s.load Config.active .txf x) ∧
        { t with txf := s.txf } =
          { s with
            txLen := BitVec.ofNat 32 frame.length, txPdone := BitVec.ofNat 32 n,
            txPoff := BitVec.ofNat 32 (hdrLen s.txFlags), csum := Config.active.hash (frame.drop 4), status := 0#8 }

/-- R66, R51: after a successful ENCODE the used region of `TXF` is a valid frame. -/
def Obligations.EncodeProducesValidFrame : Prop :=
  ∀ s t : State, exec .encode s = .next t → t.status = 0#8 →
    ValidFrame Config.active (t.bytes Config.active .txf 0 t.txLen.toNat)

/-- R66: the round trip. If the frame of a successful ENCODE is what `RXF` holds and `RX_LEN` is its length, DECODE
succeeds and yields the message encoded. -/
def Obligations.EncodeDecodeMessageRoundTrip : Prop :=
  ∀ s t u : State, exec .encode s = .next t → t.status = 0#8 → u.rxLen = t.txLen →
    (∀ i, i < t.txLen.toNat → u.load Config.active .rxf i = t.load Config.active .txf i) →
    ∃ v, exec .decode u = .next v ∧ v.status = 0#8 ∧ v.rxFlags = s.txFlags ∧
      v.rxSeq = (if hasSeq s.txFlags then s.txSeq else 0#32) ∧
      v.rxAck = (if hasAck s.txFlags then s.txAck else 0#32) ∧
      v.rxPoff = t.txPoff ∧ v.rxPlen = t.txPdone ∧
      ∀ i, i < v.rxPlen.toNat →
        v.load Config.active .rxf (v.rxPoff.toNat + i) = s.load Config.active .pwin i

/-- R67, R16: ENCODE twice with no host write between writes the same bytes and registers again. -/
def Obligations.EncodeTwice : Prop :=
  ∀ s t : State, exec .encode s = .next t →
    ∃ u, exec .encode t = .next u ∧ SameBytes Config.active .txf t u ∧ { u with txf := t.txf } = t

/-- R60, R65, R68: what ENCODE leaves depends only on its operand registers and the payload window. -/
def Obligations.EncodeDependsOnlyOnOperands : Prop :=
  ∀ s s' t t' : State, s.txFlags = s'.txFlags → s.txSeq = s'.txSeq → s.txAck = s'.txAck → s.txPlen = s'.txPlen →
    (∀ i, i < Config.active.buflen - 6 → s.load Config.active .pwin i = s'.load Config.active .pwin i) →
    exec .encode s = .next t → exec .encode s' = .next t' →
    t.status = t'.status ∧
      (t.status = 0#8 → t.txLen = t'.txLen ∧ t.txPdone = t'.txPdone ∧ t.txPoff = t'.txPoff ∧ t.csum = t'.csum ∧
        ∀ x, x < t.txLen.toNat → t.load Config.active .txf x = t'.load Config.active .txf x)

/-! ### APPEND_FIN -/

/-- R80, R82: for a legal `TX_LEN`, APPEND_FIN sets FIN in the flags byte, stores the checksum of the frame so marked, and
changes nothing else; for any other, `STATUS` only. -/
def Obligations.AppendFinResult : Prop :=
  ∀ s : State,
    (6 ≤ s.txLen.toNat ∧ s.txLen.toNat ≤ Config.active.buflen →
      ∃ t, exec .appendFin s = .next t ∧
        t.load Config.active .txf 5 = s.load Config.active .txf 5 ||| 0x04#8 ∧
        (∀ x, 4 ≤ x → x ≠ 5 → t.load Config.active .txf x = s.load Config.active .txf x) ∧
        t.loadWord Config.active .txf 0 = Config.active.hash (t.bytes Config.active .txf 4 (s.txLen.toNat - 4)) ∧
        { t with txf := s.txf } = { s with csum := t.loadWord Config.active .txf 0, status := 0#8 }) ∧
    (¬(6 ≤ s.txLen.toNat ∧ s.txLen.toNat ≤ Config.active.buflen) →
      exec .appendFin s = .next { s with status := 13#8 })

/-- R81: `TX_LEN` below 6 or above `BUFLEN`: `E_UNKNOWN`, and nothing else is written; so it is right after reset. -/
def Obligations.AppendFinBadLength : Prop :=
  (∀ s : State, s.txLen.toNat < 6 ∨ Config.active.buflen < s.txLen.toNat →
    exec .appendFin s = .next { s with status := 13#8 }) ∧
  exec .appendFin State.reset = .next { State.reset with status := 13#8 }

/-- R83: APPEND_FIN after ENCODE leaves exactly the frame, length and checksum that ENCODE with FIN in the flags leaves: a
valid frame again. -/
def Obligations.AppendFinEqualsEncodingFin : Prop :=
  ∀ s t : State, exec .encode s = .next t → t.status = 0#8 →
    ∃ u v, exec .appendFin t = .next u ∧ exec .encode { s with txFlags := s.txFlags ||| 0x04#8 } = .next v ∧
      u.status = 0#8 ∧ v.status = 0#8 ∧ u.txLen = v.txLen ∧ u.csum = v.csum ∧
      ValidFrame Config.active (u.bytes Config.active .txf 0 u.txLen.toNat) ∧
      ∀ x, x < u.txLen.toNat → u.load Config.active .txf x = v.load Config.active .txf x

/-- R84: a second APPEND_FIN changes nothing. -/
def Obligations.AppendFinTwice : Prop :=
  ∀ s t : State, exec .appendFin s = .next t →
    ∃ u, exec .appendFin t = .next u ∧ SameBytes Config.active .txf t u ∧ { u with txf := t.txf } = t

/-! ### DECODE -/

/-- R71, R132, R133: the result of DECODE is that of the first check that fails, in this order. -/
def Obligations.DecodeCheckOrder : Prop :=
  ∀ s : State, ∃ t, exec .decode s = .next t ∧ t.status =
    if Config.active.buflen < s.rxLen.toNat then 13#8
    else if s.rxLen.toNat < 6 then 2#8
    else if recomputed s ≠ s.loadWord Config.active .rxf 0 then 3#8
    else if s.load Config.active .rxf 4 ≠ Config.active.version then 1#8
    else if s.rxLen.toNat < hdrLen (s.load Config.active .rxf 5) then 2#8
    else 0#8

/-- R78, R14: a failed DECODE writes `STATUS`, and `CSUM` when the length checks passed; nothing else. -/
def Obligations.DecodeFailureState : Prop :=
  ∀ s t : State, exec .decode s = .next t → t.status ≠ 0#8 →
    t = { s with
      status := t.status
      csum := if Config.active.buflen < s.rxLen.toNat ∨ s.rxLen.toNat < 6 then s.csum else recomputed s }

/-- R76, R77: DECODE of a valid frame extracts the message; absent numbers are 0, trailing bytes without DAT or BLK are
ignored, and nothing but the five result registers, `CSUM` and `STATUS` changes. -/
def Obligations.DecodeExtractsMessage : Prop :=
  ∀ s : State, s.rxLen.toNat ≤ Config.active.buflen → ValidFrame Config.active (received s) →
    let f := s.load Config.active .rxf 5
    exec .decode s = .next
      { s with
        status := 0#8
        csum := s.loadWord Config.active .rxf 0
        rxFlags := f
        rxSeq := if hasSeq f then s.loadWord Config.active .rxf 6 else 0#32
        rxAck := if hasAck f then s.loadWord Config.active .rxf (if hasSeq f then 10 else 6) else 0#32
        rxPoff := BitVec.ofNat 32 (hdrLen f)
        rxPlen := if hasPay f then BitVec.ofNat 32 (s.rxLen.toNat - hdrLen f) else 0#32 }

/-- R79: for at most `BUFLEN` bytes received, DECODE computes the pure function `decode(F)`. -/
def Obligations.DecodeComputesPureFunction : Prop :=
  ∀ s : State, s.rxLen.toNat ≤ Config.active.buflen →
    match pureDecode Config.active (received s) with
    | .error code => ∃ t, exec .decode s = .next t ∧ t = { s with status := resultByte code, csum := t.csum }
    | .ok msg =>
      ∃ t, exec .decode s = .next t ∧
        t.bytes Config.active .rxf t.rxPoff.toNat t.rxPlen.toNat = msg.payload ∧
        t = { s with
          status := 0#8, csum := wordAt (received s) 0, rxFlags := msg.flags, rxSeq := msg.seq, rxAck := msg.ack,
          rxPoff := BitVec.ofNat 32 (hdrLen msg.flags), rxPlen := BitVec.ofNat 32 msg.payload.length }

/-- R51, R70: DECODE succeeds exactly on valid frames. -/
def Obligations.DecodeSucceedsExactlyOnValidFrames : Prop :=
  ∀ s : State, (∃ t, exec .decode s = .next t ∧ t.status = 0#8) ↔
    s.rxLen.toNat ≤ Config.active.buflen ∧ ValidFrame Config.active (received s)

/-- R79, R87: one flipped bit anywhere in a valid frame, at the same length, makes DECODE fail with `E_CHECKSUM`. -/
def Obligations.ChecksumSensitivity : Prop :=
  ∀ (s s' : State) (p : Nat) (j : Fin 8), s.rxLen.toNat ≤ Config.active.buflen →
    ValidFrame Config.active (received s) → s'.rxLen = s.rxLen → p < s.rxLen.toNat →
    s'.load Config.active .rxf p = s.load Config.active .rxf p ^^^ (1#8 <<< j.val) →
    (∀ x, x < s.rxLen.toNat → x ≠ p → s'.load Config.active .rxf x = s.load Config.active .rxf x) →
    ∃ t, exec .decode s' = .next t ∧ t.status = 3#8

/-- R73, R74: past the length checks, unequal checksums give `E_CHECKSUM`, whatever the version byte; under equal ones a
foreign version byte gives `E_VERSION`, whatever the flags declare. -/
def Obligations.ChecksumThenVersionCheck : Prop :=
  ∀ s : State, 6 ≤ s.rxLen.toNat → s.rxLen.toNat ≤ Config.active.buflen →
    (recomputed s ≠ s.loadWord Config.active .rxf 0 →
      exec .decode s = .next { s with status := 3#8, csum := recomputed s }) ∧
    (recomputed s = s.loadWord Config.active .rxf 0 → s.load Config.active .rxf 4 ≠ Config.active.version →
      exec .decode s = .next { s with status := 1#8, csum := recomputed s })

/-- R75: under a right checksum and version, a header longer than the received bytes gives `E_SHORT`; one that ends exactly
with them is accepted, with an empty payload. -/
def Obligations.OptionalFieldOverrun : Prop :=
  ∀ s : State, 6 ≤ s.rxLen.toNat → s.rxLen.toNat ≤ Config.active.buflen →
    recomputed s = s.loadWord Config.active .rxf 0 → s.load Config.active .rxf 4 = Config.active.version →
    (s.rxLen.toNat < hdrLen (s.load Config.active .rxf 5) →
      exec .decode s = .next { s with status := 2#8, csum := recomputed s }) ∧
    (hdrLen (s.load Config.active .rxf 5) = s.rxLen.toNat →
      ∃ t, exec .decode s = .next t ∧ t.status = 0#8 ∧ t.rxPoff = s.rxLen ∧ t.rxPlen = 0#32)

/-- R72: `RX_LEN` above `BUFLEN` is `E_UNKNOWN`, below 6 `E_SHORT`; nothing else is written. -/
def Obligations.DecodeLengthChecks : Prop :=
  ∀ s : State,
    (Config.active.buflen < s.rxLen.toNat → exec .decode s = .next { s with status := 13#8 }) ∧
    (s.rxLen.toNat < 6 → exec .decode s = .next { s with status := 2#8 })

/-- R79: DECODE twice with no host write between gives the same state again. -/
def Obligations.DecodeTwice : Prop :=
  ∀ s t : State, exec .decode s = .next t → exec .decode t = .next t

/-! ### The checksum engine -/

/-- R91: HASH_TX; with `HOFF` 4 and `HLEN` `TX_LEN - 4` after a successful ENCODE it gives the checksum in the frame. -/
def Obligations.HashTxResult : Prop :=
  (∀ s : State,
    (s.hoff.toNat + s.hlen.toNat ≤ Config.active.buflen → exec .hashTx s = .next
      { s with csum := Config.active.hash (s.bytes Config.active .txf s.hoff.toNat s.hlen.toNat), status := 0#8 }) ∧
    (Config.active.buflen < s.hoff.toNat + s.hlen.toNat → exec .hashTx s = .next { s with status := 13#8 })) ∧
  ∀ s t : State, exec .encode s = .next t → t.status = 0#8 →
    ∃ u, exec .hashTx { t with hoff := 4#32, hlen := t.txLen - 4#32 } = .next u ∧ u.status = 0#8 ∧
      u.csum = u.loadWord Config.active .txf 0 ∧ u.csum = t.csum

/-- R92: HASH_RX; with `HOFF` 4 and `HLEN` `RX_LEN - 4` it gives the value DECODE compares, without DECODE's checks. -/
def Obligations.HashRxResult : Prop :=
  (∀ s : State,
    (s.hoff.toNat + s.hlen.toNat ≤ Config.active.buflen → exec .hashRx s = .next
      { s with csum := Config.active.hash (s.bytes Config.active .rxf s.hoff.toNat s.hlen.toNat), status := 0#8 }) ∧
    (Config.active.buflen < s.hoff.toNat + s.hlen.toNat → exec .hashRx s = .next { s with status := 13#8 })) ∧
  ∀ s t : State, 6 ≤ s.rxLen.toNat → s.rxLen.toNat ≤ Config.active.buflen → exec .decode s = .next t →
    ∃ u, exec .hashRx { s with hoff := 4#32, hlen := s.rxLen - 4#32 } = .next u ∧ u.csum = t.csum ∧ u.status = 0#8

/-- R88: the check values of the reference `Hash`. -/
def Obligations.ReferenceHashCheckValues : Prop :=
  referenceHash [] = 0x00000000#32 ∧
  referenceHash [0x61#8] = 0xE8B7BE43#32 ∧
  referenceHash [0x31#8, 0x32#8, 0x33#8, 0x34#8, 0x35#8, 0x36#8, 0x37#8, 0x38#8, 0x39#8] = 0xCBF43926#32 ∧
  referenceHash [0x00#8] = 0xD202EF8D#32 ∧
  referenceHash [0x01#8, 0x01#8] = 0x2FC51328#32

/-! ### Hazards, pseudo-instructions, the host's software -/

/-- R145: reception leaves the transmit frame and its length untouched. -/
def Obligations.TransmitFrameSurvivesReception : Prop :=
  ∀ (i : Instr) (s t : State),
    (i = .decode ∨ i = .hashRx ∨ (∃ a v, i = .wrbRxf a v) ∨ (∃ a v, i = .wrbPwin a v) ∨ (∃ v, i = .wrreg 0x0C#24 v)) →
    exec i s = .next t → SameBytes Config.active .txf s t ∧ t.txLen = s.txLen

/-- R58: every transaction a pseudo-instruction expands to is well-formed. -/
def Obligations.PseudoInstructionsWellFormed : Prop :=
  (∀ (f : Byte) (seq ack : Word), ∀ i ∈ setMsg f seq ack, i.WellFormed Config.active) ∧
  (∀ payload : List Byte, ∀ i ∈ loadPay Config.active payload, i.WellFormed Config.active) ∧
  (∀ datagram : List Byte, datagram.length ≤ Config.active.buflen →
    ∀ i ∈ loadRx datagram, i.WellFormed Config.active) ∧
  (∀ s : State, s.txLen.toNat ≤ Config.active.buflen →
    (∀ i ∈ loopBack Config.active s, i.WellFormed Config.active) ∧
    (∀ i ∈ sendFrame s, i.WellFormed Config.active))

/-- R117 (the host's software, outside the block): replies that repeat the confirmed number make the stream sender resend
nine times, and fail at the tenth, not before and not after. For an empty payload, on which the spec is silent, that is the
model's choice (N13, log entry 11). -/
def Obligations.SenderFailsAtTenthDuplicate : Prop :=
  ∀ (t : TransferState) (replies : List State), t.dups = 0 →
    (∀ s ∈ replies, s.status = 0#8 ∧ flagSet s.rxFlags .ack = true ∧ s.rxAck.toNat = t.acked) →
    afterReplies t replies =
      if replies.length < 10 then .resend { t with dups := replies.length } else .fail .tooManyRetx

/-- R107, R127 (the host's software, outside the block): after the ENCODE of a BLK frame with the payload's length offered, the
bulk sender returns `E_BLOCK_TOO_LARGE` exactly for a payload that no frame holds, and else sends the frame, of 6 bytes more
than the payload. Beyond 2^32 - 1 bytes the length offered is the model's choice (log entry 11). -/
def Obligations.BulkSenderReturnsOversized : Prop :=
  ∀ (payload : List Byte) (s : State), s.txFlags = 0x20#8 → s.txPlen = bulkOffered payload →
    ∃ t, exec .encode s = .next t ∧
      (Config.active.buflen - 6 < payload.length → bulkMove t = .fail .blockTooLarge) ∧
      (payload.length ≤ Config.active.buflen - 6 →
        bulkMove t = .send (sendFrame t) ∧ t.txLen.toNat = 6 + payload.length)

/-- R121 (the host's software, outside the block): a datagram with a wrong checksum, or with a sequence number other than
the running total, is answered with the unchanged total. -/
def Obligations.ReceiverRepeatsTotal : Prop :=
  ∀ (r : ReceiveState) (s : State),
    s.status = 3#8 ∨ (s.status = 0#8 ∧ s.rxSeq.toNat ≠ r.received.length) →
    receiverMove Config.active r s = .repeatAck r.received.length
end

