-- ==== Sys2Proof/Laws/Layout.lean ====
section
/-! SUPPORT. The layout of a frame: sizes, header lengths, the length of a body, and what FIN does not change. -/

namespace Sys2Proof.Machine

/-- `BUFLEN` is at least 14 (R6). -/
theorem buflen_ge (c : Config) : 14 ≤ c.buflen := by unfold Config.buflen; omega

/-- `BUFLEN` is at most 2^24 (R5). -/
theorem buflen_le (c : Config) : c.buflen ≤ 16777216 := by
  have := c.buflenExtra.isLt
  unfold Config.buflen; omega

@[simp] theorem bufSize_txf (c : Config) : c.bufSize .txf = c.buflen := rfl

@[simp] theorem bufSize_rxf (c : Config) : c.bufSize .rxf = c.buflen := rfl

@[simp] theorem bufSize_pwin (c : Config) : c.bufSize .pwin = c.buflen - 6 := rfl

@[simp] theorem inBuffer_eq_true (c : Config) (b : Buf) (addr : Addr) :
    inBuffer c b addr = true ↔ addr.toNat < c.bufSize b := decide_eq_true_iff

@[simp] theorem inBuffer_eq_false (c : Config) (b : Buf) (addr : Addr) :
    inBuffer c b addr = false ↔ c.bufSize b ≤ addr.toNat := by
  rw [← Bool.not_eq_true, inBuffer_eq_true]; omega

theorem hdrLen_ge (f : Byte) : 6 ≤ hdrLen f := by unfold hdrLen; omega

theorem hdrLen_le (f : Byte) : hdrLen f ≤ 14 := by unfold hdrLen; split <;> split <;> omega

/-- The header's length is 6, 10 or 14 (R44). -/
theorem hdrLen_cases (f : Byte) : hdrLen f = 6 ∨ hdrLen f = 10 ∨ hdrLen f = 14 := by
  unfold hdrLen; split <;> split <;> omega

/-- The header always fits (R6, R61). -/
theorem hdrLen_le_buflen (c : Config) (f : Byte) : hdrLen f ≤ c.buflen :=
  Nat.le_trans (hdrLen_le f) (buflen_ge c)

theorem hdrLen_add_cap (c : Config) (f : Byte) : hdrLen f + payloadCap c f = c.buflen := by
  have := hdrLen_le_buflen c f
  unfold payloadCap; omega

/-- No frame carries more than the window holds (R63). -/
theorem payloadCap_le_pwinSize (c : Config) (f : Byte) : payloadCap c f ≤ c.buflen - 6 := by
  have := hdrLen_ge f
  unfold payloadCap; omega

/-- A body is the header after the checksum field and the payload. -/
theorem length_pureBody (c : Config) (f : Byte) (seq ack : Word) (payload : List Byte) :
    (pureBody c f seq ack payload).length + 4 = hdrLen f + payload.length := by
  unfold pureBody hdrLen
  split <;> split <;> simp [be32] <;> omega

/-- A flag set in a flags byte leaves every other flag as it was. -/
theorem flagSet_or_fin (f : Byte) {m : Flag} (h : m ≠ .fin) : flagSet (f ||| 0x04#8) m = flagSet f m := by
  unfold flagSet
  congr 1
  have hm : (0x04#8 &&& flagMask m) = 0#8 := by cases m <;> first | rfl | exact absurd rfl h
  have := BitVec.and_or_distrib_right (x := f) (y := 0x04#8) (z := flagMask m)
  rw [this, hm, BitVec.or_zero]

@[simp] theorem hasSeq_or_fin (f : Byte) : hasSeq (f ||| 0x04#8) = hasSeq f := by
  simp [hasSeq, flagSet_or_fin]

@[simp] theorem hasAck_or_fin (f : Byte) : hasAck (f ||| 0x04#8) = hasAck f := by
  simp [hasAck, flagSet_or_fin]

@[simp] theorem hasPay_or_fin (f : Byte) : hasPay (f ||| 0x04#8) = hasPay f := by
  simp [hasPay, flagSet_or_fin]

@[simp] theorem hdrLen_or_fin (f : Byte) : hdrLen (f ||| 0x04#8) = hdrLen f := by
  simp [hdrLen]

/-- BLK declares a payload and no sequence number (R43). -/
theorem hasPay_of_blk {f : Byte} (h : flagSet f .blk = true) : hasPay f = true := by simp [hasPay, h]

end Sys2Proof.Machine
end

