-- ==== Sys2Proof/Laws/Memory.lean ====
section
/-! SUPPORT. What a buffer's operations do: reading after writing, spans, and that every write keeps the canonical form.
The read laws need no canonical form. -/

namespace Sys2Proof.Machine

variable {bg : Nat → Byte} {size : Nat}

@[simp] theorem Memory.read_nil (a : Nat) : Memory.read bg [] a = bg a := rfl

@[simp] theorem Memory.read_cons (k : Nat) (v : Byte) (m : Memory) (a : Nat) :
    Memory.read bg ((k, v) :: m) a = if k = a then v else Memory.read bg m a := rfl

theorem Memory.read_of_absent {m : Memory} {a : Nat} (h : ∀ cell ∈ m, cell.1 ≠ a) :
    Memory.read bg m a = bg a := by
  induction m with
  | nil => rfl
  | cons cell m ih =>
    obtain ⟨k, v⟩ := cell
    rw [Memory.read_cons, if_neg (h (k, v) (by simp)), ih fun x hx => h x (by simp [hx])]

theorem Memory.absent_erase (m : Memory) (a : Nat) : ∀ cell ∈ Memory.erase m a, cell.1 ≠ a := by
  intro cell hc
  simpa using (List.mem_filter.mp hc).2

theorem Memory.read_erase_same (m : Memory) (a : Nat) : Memory.read bg (Memory.erase m a) a = bg a :=
  Memory.read_of_absent (Memory.absent_erase m a)

theorem Memory.read_erase_other {m : Memory} {a b : Nat} (h : b ≠ a) :
    Memory.read bg (Memory.erase m a) b = Memory.read bg m b := by
  induction m with
  | nil => rfl
  | cons cell m ih =>
    obtain ⟨k, v⟩ := cell
    unfold Memory.erase at ih ⊢
    by_cases hk : k = a
    · subst hk; simp [ih, Ne.symm h]
    · simp [hk, ih]

theorem Memory.read_insert_same {m : Memory} {a : Nat} (v : Byte) (h : ∀ cell ∈ m, cell.1 ≠ a) :
    Memory.read bg (Memory.insert m a v) a = v := by
  induction m with
  | nil => simp [Memory.insert]
  | cons cell m ih =>
    obtain ⟨k, x⟩ := cell
    unfold Memory.insert
    split
    · simp
    · have hk : k ≠ a := h (k, x) (by simp)
      rw [Memory.read_cons, if_neg hk, ih fun y hy => h y (by simp [hy])]

theorem Memory.read_insert_other {m : Memory} {a b : Nat} (v : Byte) (h : b ≠ a) :
    Memory.read bg (Memory.insert m a v) b = Memory.read bg m b := by
  induction m with
  | nil => simp [Memory.insert, Ne.symm h]
  | cons cell m ih =>
    obtain ⟨k, x⟩ := cell
    unfold Memory.insert
    split
    · simp [Ne.symm h]
    · simp [ih]

/-- A read after a write: the byte written at its offset, the byte of before everywhere else. -/
theorem Memory.read_write (m : Memory) (a b : Nat) (v : Byte) :
    Memory.read bg (Memory.write bg m a v) b = if b = a then v else Memory.read bg m b := by
  unfold Memory.write
  by_cases hb : b = a
  · subst hb
    by_cases hv : v = bg b
    · simp [hv, Memory.read_erase_same]
    · simp [hv, Memory.read_insert_same v (Memory.absent_erase m b)]
  · split <;> simp [hb, Memory.read_insert_other, Memory.read_erase_other]

/-- A read after bytes are written at rising offsets. -/
theorem Memory.read_writeAll (m : Memory) (a b : Nat) (vs : List Byte) :
    Memory.read bg (Memory.writeAll bg m a vs) b =
      if a ≤ b ∧ b < a + vs.length then vs.getD (b - a) 0#8 else Memory.read bg m b := by
  induction vs generalizing m a with
  | nil => rw [if_neg (by simp), Memory.writeAll]
  | cons v vs ih =>
    rw [Memory.writeAll, ih, Memory.read_write]
    by_cases h1 : b = a
    · subst h1; simp
    · by_cases h2 : a + 1 ≤ b ∧ b < a + 1 + vs.length
      · have h3 : a ≤ b ∧ b < a + (v :: vs).length := by simp only [List.length_cons]; omega
        have h4 : b - a = (b - (a + 1)) + 1 := by omega
        rw [if_pos h2, if_pos h3, h4, List.getD_cons_succ]
      · have h3 : ¬(a ≤ b ∧ b < a + (v :: vs).length) := by simp only [List.length_cons]; omega
        rw [if_neg h2, if_neg h3, if_neg h1]

@[simp] theorem Memory.length_span (m : Memory) (a n : Nat) : (Memory.span bg m a n).length = n := by
  induction n generalizing a with
  | zero => rfl
  | succ n ih => simp [Memory.span, ih]

/-- Byte `i` of a span is the byte at its offset. -/
theorem Memory.getD_span {m : Memory} {a n i : Nat} (h : i < n) :
    (Memory.span bg m a n).getD i 0#8 = Memory.read bg m (a + i) := by
  induction n generalizing a i with
  | zero => omega
  | succ n ih =>
    cases i with
    | zero => simp [Memory.span]
    | succ i =>
      rw [Memory.span, List.getD_cons_succ, ih (by omega)]
      congr 1; omega

/-- Two spans are equal when they read equal bytes. -/
theorem Memory.span_congr {bg' : Nat → Byte} {m m' : Memory} {a n : Nat}
    (h : ∀ i, i < n → Memory.read bg m (a + i) = Memory.read bg' m' (a + i)) :
    Memory.span bg m a n = Memory.span bg' m' a n := by
  induction n generalizing a with
  | zero => rfl
  | succ n ih =>
    have h0 : Memory.read bg m a = Memory.read bg' m' a := h 0 (by omega)
    rw [Memory.span, Memory.span, h0, ih fun i hi => ?_]
    have := h (i + 1) (by omega)
    rwa [show a + (i + 1) = a + 1 + i by omega] at this

/-- A span read across two neighbouring spans. -/
theorem Memory.span_append (m : Memory) (a n k : Nat) :
    Memory.span bg m a (n + k) = Memory.span bg m a n ++ Memory.span bg m (a + n) k := by
  induction n generalizing a with
  | zero => simp [Memory.span]
  | succ n ih =>
    rw [show n + 1 + k = (n + k) + 1 by omega, Memory.span, ih, Memory.span, List.cons_append,
      show a + 1 + n = a + (n + 1) by omega]

/-- A span of bytes just written is those bytes. -/
theorem Memory.span_writeAll (m : Memory) (a : Nat) (vs : List Byte) :
    Memory.span bg (Memory.writeAll bg m a vs) a vs.length = vs := by
  apply List.ext_getElem (by simp)
  intro i h1 h2
  rw [← List.getD_eq_getElem (hn := h1) (d := 0#8), ← List.getD_eq_getElem (hn := h2) (d := 0#8),
    Memory.getD_span h2, Memory.read_writeAll, if_pos (by omega)]
  congr 1; omega

/-! ### The canonical form -/

theorem Memory.wf_nil : Memory.wf bg size [] := ⟨List.Pairwise.nil, fun _ h => by simp at h⟩

theorem Memory.wf_erase {m : Memory} (a : Nat) (h : Memory.wf bg size m) :
    Memory.wf bg size (Memory.erase m a) :=
  ⟨h.1.filter _, fun cell hc => h.2 cell (List.mem_filter.mp hc).1⟩

theorem Memory.mem_insert {m : Memory} {a : Nat} {v : Byte} {cell : Host.Cell}
    (h : cell ∈ Memory.insert m a v) : cell = (a, v) ∨ cell ∈ m := by
  induction m with
  | nil => simpa [Memory.insert] using h
  | cons x m ih =>
    obtain ⟨k, y⟩ := x
    unfold Memory.insert at h
    split at h
    · simpa using h
    · rcases List.mem_cons.mp h with h | h
      · simp [h]
      · rcases ih h with h | h <;> simp [h]

theorem Memory.pairwise_insert {m : Memory} {a : Nat} (v : Byte) (hs : m.Pairwise (fun x y => x.1 < y.1))
    (h : ∀ cell ∈ m, cell.1 ≠ a) : (Memory.insert m a v).Pairwise (fun x y => x.1 < y.1) := by
  induction m with
  | nil => simp [Memory.insert]
  | cons x m ih =>
    obtain ⟨k, y⟩ := x
    have hk : k ≠ a := h (k, y) (by simp)
    obtain ⟨hlt, hs'⟩ := List.pairwise_cons.mp hs
    unfold Memory.insert
    split
    · next ha =>
      refine List.pairwise_cons.mpr ⟨fun cell hc => ?_, hs⟩
      rcases List.mem_cons.mp hc with rfl | hc
      · exact ha
      · exact Nat.lt_trans ha (hlt cell hc)
    · next ha =>
      refine List.pairwise_cons.mpr ⟨fun cell hc => ?_, ih hs' fun z hz => h z (by simp [hz])⟩
      rcases Memory.mem_insert hc with rfl | hc
      · simp only; omega
      · exact hlt cell hc

/-- A write inside the buffer keeps the canonical form. -/
theorem Memory.wf_write {m : Memory} {a : Nat} (v : Byte) (ha : a < size) (h : Memory.wf bg size m) :
    Memory.wf bg size (Memory.write bg m a v) := by
  have he := Memory.wf_erase a h
  unfold Memory.write
  split
  · exact he
  · next hv =>
    refine ⟨Memory.pairwise_insert v he.1 (Memory.absent_erase m a), fun cell hc => ?_⟩
    rcases Memory.mem_insert hc with rfl | hc
    · exact ⟨ha, hv⟩
    · exact he.2 cell hc

/-- Writes inside the buffer keep the canonical form. -/
theorem Memory.wf_writeAll {m : Memory} {a : Nat} {vs : List Byte} (ha : a + vs.length ≤ size)
    (h : Memory.wf bg size m) : Memory.wf bg size (Memory.writeAll bg m a vs) := by
  induction vs generalizing m a with
  | nil => exact h
  | cons v vs ih =>
    simp only [List.length_cons] at ha
    exact ih (by omega) (Memory.wf_write v (by omega) h)

end Sys2Proof.Machine
end

