-- ==== Sys2Proof/Laws/State.lean ====
section
/-! SUPPORT. What each named update of the state leaves in each field. -/

namespace Sys2Proof.Machine

/-! ### `finish` -/

@[simp] theorem State.finish_status (s : State) (r : ResultCode) :
    (s.finish r).status = resultByte r := rfl
@[simp] theorem State.finish_csum (s : State) (r : ResultCode) :
    (s.finish r).csum = s.csum := rfl
@[simp] theorem State.finish_txFlags (s : State) (r : ResultCode) :
    (s.finish r).txFlags = s.txFlags := rfl
@[simp] theorem State.finish_txSeq (s : State) (r : ResultCode) :
    (s.finish r).txSeq = s.txSeq := rfl
@[simp] theorem State.finish_txAck (s : State) (r : ResultCode) :
    (s.finish r).txAck = s.txAck := rfl
@[simp] theorem State.finish_txPlen (s : State) (r : ResultCode) :
    (s.finish r).txPlen = s.txPlen := rfl
@[simp] theorem State.finish_txPdone (s : State) (r : ResultCode) :
    (s.finish r).txPdone = s.txPdone := rfl
@[simp] theorem State.finish_txPoff (s : State) (r : ResultCode) :
    (s.finish r).txPoff = s.txPoff := rfl
@[simp] theorem State.finish_txLen (s : State) (r : ResultCode) :
    (s.finish r).txLen = s.txLen := rfl
@[simp] theorem State.finish_rxLen (s : State) (r : ResultCode) :
    (s.finish r).rxLen = s.rxLen := rfl
@[simp] theorem State.finish_rxFlags (s : State) (r : ResultCode) :
    (s.finish r).rxFlags = s.rxFlags := rfl
@[simp] theorem State.finish_rxSeq (s : State) (r : ResultCode) :
    (s.finish r).rxSeq = s.rxSeq := rfl
@[simp] theorem State.finish_rxAck (s : State) (r : ResultCode) :
    (s.finish r).rxAck = s.rxAck := rfl
@[simp] theorem State.finish_rxPoff (s : State) (r : ResultCode) :
    (s.finish r).rxPoff = s.rxPoff := rfl
@[simp] theorem State.finish_rxPlen (s : State) (r : ResultCode) :
    (s.finish r).rxPlen = s.rxPlen := rfl
@[simp] theorem State.finish_hoff (s : State) (r : ResultCode) :
    (s.finish r).hoff = s.hoff := rfl
@[simp] theorem State.finish_hlen (s : State) (r : ResultCode) :
    (s.finish r).hlen = s.hlen := rfl
@[simp] theorem State.finish_txf (s : State) (r : ResultCode) :
    (s.finish r).txf = s.txf := rfl
@[simp] theorem State.finish_rxf (s : State) (r : ResultCode) :
    (s.finish r).rxf = s.rxf := rfl
@[simp] theorem State.finish_pwin (s : State) (r : ResultCode) :
    (s.finish r).pwin = s.pwin := rfl
@[simp] theorem State.finish_resets (s : State) (r : ResultCode) :
    (s.finish r).resets = s.resets := rfl
@[simp] theorem State.finish_draw (s : State) (r : ResultCode) :
    (s.finish r).draw = s.draw := rfl
@[simp] theorem State.finish_pending (s : State) (r : ResultCode) :
    (s.finish r).pending = s.pending := rfl
@[simp] theorem State.finish_result (s : State) (r : ResultCode) :
    (s.finish r).result = s.result := rfl

/-! ### `answer` -/

@[simp] theorem State.answer_status (s : State) (v : Word) :
    (s.answer v).status = s.status := rfl
@[simp] theorem State.answer_csum (s : State) (v : Word) :
    (s.answer v).csum = s.csum := rfl
@[simp] theorem State.answer_txFlags (s : State) (v : Word) :
    (s.answer v).txFlags = s.txFlags := rfl
@[simp] theorem State.answer_txSeq (s : State) (v : Word) :
    (s.answer v).txSeq = s.txSeq := rfl
@[simp] theorem State.answer_txAck (s : State) (v : Word) :
    (s.answer v).txAck = s.txAck := rfl
@[simp] theorem State.answer_txPlen (s : State) (v : Word) :
    (s.answer v).txPlen = s.txPlen := rfl
@[simp] theorem State.answer_txPdone (s : State) (v : Word) :
    (s.answer v).txPdone = s.txPdone := rfl
@[simp] theorem State.answer_txPoff (s : State) (v : Word) :
    (s.answer v).txPoff = s.txPoff := rfl
@[simp] theorem State.answer_txLen (s : State) (v : Word) :
    (s.answer v).txLen = s.txLen := rfl
@[simp] theorem State.answer_rxLen (s : State) (v : Word) :
    (s.answer v).rxLen = s.rxLen := rfl
@[simp] theorem State.answer_rxFlags (s : State) (v : Word) :
    (s.answer v).rxFlags = s.rxFlags := rfl
@[simp] theorem State.answer_rxSeq (s : State) (v : Word) :
    (s.answer v).rxSeq = s.rxSeq := rfl
@[simp] theorem State.answer_rxAck (s : State) (v : Word) :
    (s.answer v).rxAck = s.rxAck := rfl
@[simp] theorem State.answer_rxPoff (s : State) (v : Word) :
    (s.answer v).rxPoff = s.rxPoff := rfl
@[simp] theorem State.answer_rxPlen (s : State) (v : Word) :
    (s.answer v).rxPlen = s.rxPlen := rfl
@[simp] theorem State.answer_hoff (s : State) (v : Word) :
    (s.answer v).hoff = s.hoff := rfl
@[simp] theorem State.answer_hlen (s : State) (v : Word) :
    (s.answer v).hlen = s.hlen := rfl
@[simp] theorem State.answer_txf (s : State) (v : Word) :
    (s.answer v).txf = s.txf := rfl
@[simp] theorem State.answer_rxf (s : State) (v : Word) :
    (s.answer v).rxf = s.rxf := rfl
@[simp] theorem State.answer_pwin (s : State) (v : Word) :
    (s.answer v).pwin = s.pwin := rfl
@[simp] theorem State.answer_resets (s : State) (v : Word) :
    (s.answer v).resets = s.resets := rfl
@[simp] theorem State.answer_draw (s : State) (v : Word) :
    (s.answer v).draw = s.draw := rfl
@[simp] theorem State.answer_pending (s : State) (v : Word) :
    (s.answer v).pending = s.pending := rfl
@[simp] theorem State.answer_result (s : State) (v : Word) :
    (s.answer v).result = some v := rfl

/-! ### `place` -/

@[simp] theorem State.place_status (s : State) (w : TWord) :
    (s.place w).status = s.status := rfl
@[simp] theorem State.place_csum (s : State) (w : TWord) :
    (s.place w).csum = s.csum := rfl
@[simp] theorem State.place_txFlags (s : State) (w : TWord) :
    (s.place w).txFlags = s.txFlags := rfl
@[simp] theorem State.place_txSeq (s : State) (w : TWord) :
    (s.place w).txSeq = s.txSeq := rfl
@[simp] theorem State.place_txAck (s : State) (w : TWord) :
    (s.place w).txAck = s.txAck := rfl
@[simp] theorem State.place_txPlen (s : State) (w : TWord) :
    (s.place w).txPlen = s.txPlen := rfl
@[simp] theorem State.place_txPdone (s : State) (w : TWord) :
    (s.place w).txPdone = s.txPdone := rfl
@[simp] theorem State.place_txPoff (s : State) (w : TWord) :
    (s.place w).txPoff = s.txPoff := rfl
@[simp] theorem State.place_txLen (s : State) (w : TWord) :
    (s.place w).txLen = s.txLen := rfl
@[simp] theorem State.place_rxLen (s : State) (w : TWord) :
    (s.place w).rxLen = s.rxLen := rfl
@[simp] theorem State.place_rxFlags (s : State) (w : TWord) :
    (s.place w).rxFlags = s.rxFlags := rfl
@[simp] theorem State.place_rxSeq (s : State) (w : TWord) :
    (s.place w).rxSeq = s.rxSeq := rfl
@[simp] theorem State.place_rxAck (s : State) (w : TWord) :
    (s.place w).rxAck = s.rxAck := rfl
@[simp] theorem State.place_rxPoff (s : State) (w : TWord) :
    (s.place w).rxPoff = s.rxPoff := rfl
@[simp] theorem State.place_rxPlen (s : State) (w : TWord) :
    (s.place w).rxPlen = s.rxPlen := rfl
@[simp] theorem State.place_hoff (s : State) (w : TWord) :
    (s.place w).hoff = s.hoff := rfl
@[simp] theorem State.place_hlen (s : State) (w : TWord) :
    (s.place w).hlen = s.hlen := rfl
@[simp] theorem State.place_txf (s : State) (w : TWord) :
    (s.place w).txf = s.txf := rfl
@[simp] theorem State.place_rxf (s : State) (w : TWord) :
    (s.place w).rxf = s.rxf := rfl
@[simp] theorem State.place_pwin (s : State) (w : TWord) :
    (s.place w).pwin = s.pwin := rfl
@[simp] theorem State.place_resets (s : State) (w : TWord) :
    (s.place w).resets = s.resets := rfl
@[simp] theorem State.place_draw (s : State) (w : TWord) :
    (s.place w).draw = s.draw := rfl
@[simp] theorem State.place_pending (s : State) (w : TWord) :
    (s.place w).pending = .transaction w :: s.pending := rfl
@[simp] theorem State.place_result (s : State) (w : TWord) :
    (s.place w).result = s.result := rfl

/-! ### `afterReset` -/

@[simp] theorem State.afterReset_status (c : Config) (s : State) :
    (s.afterReset c).status = 0#8 := rfl
@[simp] theorem State.afterReset_csum (c : Config) (s : State) :
    (s.afterReset c).csum = 0#32 := rfl
@[simp] theorem State.afterReset_txFlags (c : Config) (s : State) :
    (s.afterReset c).txFlags = 0#8 := rfl
@[simp] theorem State.afterReset_txSeq (c : Config) (s : State) :
    (s.afterReset c).txSeq = 0#32 := rfl
@[simp] theorem State.afterReset_txAck (c : Config) (s : State) :
    (s.afterReset c).txAck = 0#32 := rfl
@[simp] theorem State.afterReset_txPlen (c : Config) (s : State) :
    (s.afterReset c).txPlen = 0#32 := rfl
@[simp] theorem State.afterReset_txPdone (c : Config) (s : State) :
    (s.afterReset c).txPdone = 0#32 := rfl
@[simp] theorem State.afterReset_txPoff (c : Config) (s : State) :
    (s.afterReset c).txPoff = 0#32 := rfl
@[simp] theorem State.afterReset_txLen (c : Config) (s : State) :
    (s.afterReset c).txLen = 0#32 := rfl
@[simp] theorem State.afterReset_rxLen (c : Config) (s : State) :
    (s.afterReset c).rxLen = 0#32 := rfl
@[simp] theorem State.afterReset_rxFlags (c : Config) (s : State) :
    (s.afterReset c).rxFlags = 0#8 := rfl
@[simp] theorem State.afterReset_rxSeq (c : Config) (s : State) :
    (s.afterReset c).rxSeq = 0#32 := rfl
@[simp] theorem State.afterReset_rxAck (c : Config) (s : State) :
    (s.afterReset c).rxAck = 0#32 := rfl
@[simp] theorem State.afterReset_rxPoff (c : Config) (s : State) :
    (s.afterReset c).rxPoff = 0#32 := rfl
@[simp] theorem State.afterReset_rxPlen (c : Config) (s : State) :
    (s.afterReset c).rxPlen = 0#32 := rfl
@[simp] theorem State.afterReset_hoff (c : Config) (s : State) :
    (s.afterReset c).hoff = 0#32 := rfl
@[simp] theorem State.afterReset_hlen (c : Config) (s : State) :
    (s.afterReset c).hlen = 0#32 := rfl
@[simp] theorem State.afterReset_txf (c : Config) (s : State) :
    (s.afterReset c).txf = [] := rfl
@[simp] theorem State.afterReset_rxf (c : Config) (s : State) :
    (s.afterReset c).rxf = [] := rfl
@[simp] theorem State.afterReset_pwin (c : Config) (s : State) :
    (s.afterReset c).pwin = [] := rfl
@[simp] theorem State.afterReset_resets (c : Config) (s : State) :
    (s.afterReset c).resets = s.resets + 1 := rfl
@[simp] theorem State.afterReset_draw (c : Config) (s : State) :
    (s.afterReset c).draw = c.resetDraw (s.resets + 1) s.draw s.txf s.rxf s.pwin := rfl
@[simp] theorem State.afterReset_pending (c : Config) (s : State) :
    (s.afterReset c).pending = s.pending := rfl
@[simp] theorem State.afterReset_result (c : Config) (s : State) :
    (s.afterReset c).result = none := rfl

/-! ### `setMem` -/

@[simp] theorem State.setMem_status (s : State) (b : Buf) (m : Memory) :
    (s.setMem b m).status = s.status := by cases b <;> rfl
@[simp] theorem State.setMem_csum (s : State) (b : Buf) (m : Memory) :
    (s.setMem b m).csum = s.csum := by cases b <;> rfl
@[simp] theorem State.setMem_txFlags (s : State) (b : Buf) (m : Memory) :
    (s.setMem b m).txFlags = s.txFlags := by cases b <;> rfl
@[simp] theorem State.setMem_txSeq (s : State) (b : Buf) (m : Memory) :
    (s.setMem b m).txSeq = s.txSeq := by cases b <;> rfl
@[simp] theorem State.setMem_txAck (s : State) (b : Buf) (m : Memory) :
    (s.setMem b m).txAck = s.txAck := by cases b <;> rfl
@[simp] theorem State.setMem_txPlen (s : State) (b : Buf) (m : Memory) :
    (s.setMem b m).txPlen = s.txPlen := by cases b <;> rfl
@[simp] theorem State.setMem_txPdone (s : State) (b : Buf) (m : Memory) :
    (s.setMem b m).txPdone = s.txPdone := by cases b <;> rfl
@[simp] theorem State.setMem_txPoff (s : State) (b : Buf) (m : Memory) :
    (s.setMem b m).txPoff = s.txPoff := by cases b <;> rfl
@[simp] theorem State.setMem_txLen (s : State) (b : Buf) (m : Memory) :
    (s.setMem b m).txLen = s.txLen := by cases b <;> rfl
@[simp] theorem State.setMem_rxLen (s : State) (b : Buf) (m : Memory) :
    (s.setMem b m).rxLen = s.rxLen := by cases b <;> rfl
@[simp] theorem State.setMem_rxFlags (s : State) (b : Buf) (m : Memory) :
    (s.setMem b m).rxFlags = s.rxFlags := by cases b <;> rfl
@[simp] theorem State.setMem_rxSeq (s : State) (b : Buf) (m : Memory) :
    (s.setMem b m).rxSeq = s.rxSeq := by cases b <;> rfl
@[simp] theorem State.setMem_rxAck (s : State) (b : Buf) (m : Memory) :
    (s.setMem b m).rxAck = s.rxAck := by cases b <;> rfl
@[simp] theorem State.setMem_rxPoff (s : State) (b : Buf) (m : Memory) :
    (s.setMem b m).rxPoff = s.rxPoff := by cases b <;> rfl
@[simp] theorem State.setMem_rxPlen (s : State) (b : Buf) (m : Memory) :
    (s.setMem b m).rxPlen = s.rxPlen := by cases b <;> rfl
@[simp] theorem State.setMem_hoff (s : State) (b : Buf) (m : Memory) :
    (s.setMem b m).hoff = s.hoff := by cases b <;> rfl
@[simp] theorem State.setMem_hlen (s : State) (b : Buf) (m : Memory) :
    (s.setMem b m).hlen = s.hlen := by cases b <;> rfl
@[simp] theorem State.setMem_resets (s : State) (b : Buf) (m : Memory) :
    (s.setMem b m).resets = s.resets := by cases b <;> rfl
@[simp] theorem State.setMem_draw (s : State) (b : Buf) (m : Memory) :
    (s.setMem b m).draw = s.draw := by cases b <;> rfl
@[simp] theorem State.setMem_pending (s : State) (b : Buf) (m : Memory) :
    (s.setMem b m).pending = s.pending := by cases b <;> rfl
@[simp] theorem State.setMem_result (s : State) (b : Buf) (m : Memory) :
    (s.setMem b m).result = s.result := by cases b <;> rfl

/-! ### `store` -/

@[simp] theorem State.store_status (c : Config) (s : State) (b : Buf) (a : Nat) (v : Byte) :
    (s.store c b a v).status = s.status := by cases b <;> rfl
@[simp] theorem State.store_csum (c : Config) (s : State) (b : Buf) (a : Nat) (v : Byte) :
    (s.store c b a v).csum = s.csum := by cases b <;> rfl
@[simp] theorem State.store_txFlags (c : Config) (s : State) (b : Buf) (a : Nat) (v : Byte) :
    (s.store c b a v).txFlags = s.txFlags := by cases b <;> rfl
@[simp] theorem State.store_txSeq (c : Config) (s : State) (b : Buf) (a : Nat) (v : Byte) :
    (s.store c b a v).txSeq = s.txSeq := by cases b <;> rfl
@[simp] theorem State.store_txAck (c : Config) (s : State) (b : Buf) (a : Nat) (v : Byte) :
    (s.store c b a v).txAck = s.txAck := by cases b <;> rfl
@[simp] theorem State.store_txPlen (c : Config) (s : State) (b : Buf) (a : Nat) (v : Byte) :
    (s.store c b a v).txPlen = s.txPlen := by cases b <;> rfl
@[simp] theorem State.store_txPdone (c : Config) (s : State) (b : Buf) (a : Nat) (v : Byte) :
    (s.store c b a v).txPdone = s.txPdone := by cases b <;> rfl
@[simp] theorem State.store_txPoff (c : Config) (s : State) (b : Buf) (a : Nat) (v : Byte) :
    (s.store c b a v).txPoff = s.txPoff := by cases b <;> rfl
@[simp] theorem State.store_txLen (c : Config) (s : State) (b : Buf) (a : Nat) (v : Byte) :
    (s.store c b a v).txLen = s.txLen := by cases b <;> rfl
@[simp] theorem State.store_rxLen (c : Config) (s : State) (b : Buf) (a : Nat) (v : Byte) :
    (s.store c b a v).rxLen = s.rxLen := by cases b <;> rfl
@[simp] theorem State.store_rxFlags (c : Config) (s : State) (b : Buf) (a : Nat) (v : Byte) :
    (s.store c b a v).rxFlags = s.rxFlags := by cases b <;> rfl
@[simp] theorem State.store_rxSeq (c : Config) (s : State) (b : Buf) (a : Nat) (v : Byte) :
    (s.store c b a v).rxSeq = s.rxSeq := by cases b <;> rfl
@[simp] theorem State.store_rxAck (c : Config) (s : State) (b : Buf) (a : Nat) (v : Byte) :
    (s.store c b a v).rxAck = s.rxAck := by cases b <;> rfl
@[simp] theorem State.store_rxPoff (c : Config) (s : State) (b : Buf) (a : Nat) (v : Byte) :
    (s.store c b a v).rxPoff = s.rxPoff := by cases b <;> rfl
@[simp] theorem State.store_rxPlen (c : Config) (s : State) (b : Buf) (a : Nat) (v : Byte) :
    (s.store c b a v).rxPlen = s.rxPlen := by cases b <;> rfl
@[simp] theorem State.store_hoff (c : Config) (s : State) (b : Buf) (a : Nat) (v : Byte) :
    (s.store c b a v).hoff = s.hoff := by cases b <;> rfl
@[simp] theorem State.store_hlen (c : Config) (s : State) (b : Buf) (a : Nat) (v : Byte) :
    (s.store c b a v).hlen = s.hlen := by cases b <;> rfl
@[simp] theorem State.store_resets (c : Config) (s : State) (b : Buf) (a : Nat) (v : Byte) :
    (s.store c b a v).resets = s.resets := by cases b <;> rfl
@[simp] theorem State.store_draw (c : Config) (s : State) (b : Buf) (a : Nat) (v : Byte) :
    (s.store c b a v).draw = s.draw := by cases b <;> rfl
@[simp] theorem State.store_pending (c : Config) (s : State) (b : Buf) (a : Nat) (v : Byte) :
    (s.store c b a v).pending = s.pending := by cases b <;> rfl
@[simp] theorem State.store_result (c : Config) (s : State) (b : Buf) (a : Nat) (v : Byte) :
    (s.store c b a v).result = s.result := by cases b <;> rfl

/-! ### `storeAll` -/

@[simp] theorem State.storeAll_status (c : Config) (s : State) (b : Buf) (a : Nat) (vs : List Byte) :
    (s.storeAll c b a vs).status = s.status := by cases b <;> rfl
@[simp] theorem State.storeAll_csum (c : Config) (s : State) (b : Buf) (a : Nat) (vs : List Byte) :
    (s.storeAll c b a vs).csum = s.csum := by cases b <;> rfl
@[simp] theorem State.storeAll_txFlags (c : Config) (s : State) (b : Buf) (a : Nat) (vs : List Byte) :
    (s.storeAll c b a vs).txFlags = s.txFlags := by cases b <;> rfl
@[simp] theorem State.storeAll_txSeq (c : Config) (s : State) (b : Buf) (a : Nat) (vs : List Byte) :
    (s.storeAll c b a vs).txSeq = s.txSeq := by cases b <;> rfl
@[simp] theorem State.storeAll_txAck (c : Config) (s : State) (b : Buf) (a : Nat) (vs : List Byte) :
    (s.storeAll c b a vs).txAck = s.txAck := by cases b <;> rfl
@[simp] theorem State.storeAll_txPlen (c : Config) (s : State) (b : Buf) (a : Nat) (vs : List Byte) :
    (s.storeAll c b a vs).txPlen = s.txPlen := by cases b <;> rfl
@[simp] theorem State.storeAll_txPdone (c : Config) (s : State) (b : Buf) (a : Nat) (vs : List Byte) :
    (s.storeAll c b a vs).txPdone = s.txPdone := by cases b <;> rfl
@[simp] theorem State.storeAll_txPoff (c : Config) (s : State) (b : Buf) (a : Nat) (vs : List Byte) :
    (s.storeAll c b a vs).txPoff = s.txPoff := by cases b <;> rfl
@[simp] theorem State.storeAll_txLen (c : Config) (s : State) (b : Buf) (a : Nat) (vs : List Byte) :
    (s.storeAll c b a vs).txLen = s.txLen := by cases b <;> rfl
@[simp] theorem State.storeAll_rxLen (c : Config) (s : State) (b : Buf) (a : Nat) (vs : List Byte) :
    (s.storeAll c b a vs).rxLen = s.rxLen := by cases b <;> rfl
@[simp] theorem State.storeAll_rxFlags (c : Config) (s : State) (b : Buf) (a : Nat) (vs : List Byte) :
    (s.storeAll c b a vs).rxFlags = s.rxFlags := by cases b <;> rfl
@[simp] theorem State.storeAll_rxSeq (c : Config) (s : State) (b : Buf) (a : Nat) (vs : List Byte) :
    (s.storeAll c b a vs).rxSeq = s.rxSeq := by cases b <;> rfl
@[simp] theorem State.storeAll_rxAck (c : Config) (s : State) (b : Buf) (a : Nat) (vs : List Byte) :
    (s.storeAll c b a vs).rxAck = s.rxAck := by cases b <;> rfl
@[simp] theorem State.storeAll_rxPoff (c : Config) (s : State) (b : Buf) (a : Nat) (vs : List Byte) :
    (s.storeAll c b a vs).rxPoff = s.rxPoff := by cases b <;> rfl
@[simp] theorem State.storeAll_rxPlen (c : Config) (s : State) (b : Buf) (a : Nat) (vs : List Byte) :
    (s.storeAll c b a vs).rxPlen = s.rxPlen := by cases b <;> rfl
@[simp] theorem State.storeAll_hoff (c : Config) (s : State) (b : Buf) (a : Nat) (vs : List Byte) :
    (s.storeAll c b a vs).hoff = s.hoff := by cases b <;> rfl
@[simp] theorem State.storeAll_hlen (c : Config) (s : State) (b : Buf) (a : Nat) (vs : List Byte) :
    (s.storeAll c b a vs).hlen = s.hlen := by cases b <;> rfl
@[simp] theorem State.storeAll_resets (c : Config) (s : State) (b : Buf) (a : Nat) (vs : List Byte) :
    (s.storeAll c b a vs).resets = s.resets := by cases b <;> rfl
@[simp] theorem State.storeAll_draw (c : Config) (s : State) (b : Buf) (a : Nat) (vs : List Byte) :
    (s.storeAll c b a vs).draw = s.draw := by cases b <;> rfl
@[simp] theorem State.storeAll_pending (c : Config) (s : State) (b : Buf) (a : Nat) (vs : List Byte) :
    (s.storeAll c b a vs).pending = s.pending := by cases b <;> rfl
@[simp] theorem State.storeAll_result (c : Config) (s : State) (b : Buf) (a : Nat) (vs : List Byte) :
    (s.storeAll c b a vs).result = s.result := by cases b <;> rfl

/-! ### `storeWord` -/

@[simp] theorem State.storeWord_status (c : Config) (s : State) (b : Buf) (a : Nat) (v : Word) :
    (s.storeWord c b a v).status = s.status := by cases b <;> rfl
@[simp] theorem State.storeWord_csum (c : Config) (s : State) (b : Buf) (a : Nat) (v : Word) :
    (s.storeWord c b a v).csum = s.csum := by cases b <;> rfl
@[simp] theorem State.storeWord_txFlags (c : Config) (s : State) (b : Buf) (a : Nat) (v : Word) :
    (s.storeWord c b a v).txFlags = s.txFlags := by cases b <;> rfl
@[simp] theorem State.storeWord_txSeq (c : Config) (s : State) (b : Buf) (a : Nat) (v : Word) :
    (s.storeWord c b a v).txSeq = s.txSeq := by cases b <;> rfl
@[simp] theorem State.storeWord_txAck (c : Config) (s : State) (b : Buf) (a : Nat) (v : Word) :
    (s.storeWord c b a v).txAck = s.txAck := by cases b <;> rfl
@[simp] theorem State.storeWord_txPlen (c : Config) (s : State) (b : Buf) (a : Nat) (v : Word) :
    (s.storeWord c b a v).txPlen = s.txPlen := by cases b <;> rfl
@[simp] theorem State.storeWord_txPdone (c : Config) (s : State) (b : Buf) (a : Nat) (v : Word) :
    (s.storeWord c b a v).txPdone = s.txPdone := by cases b <;> rfl
@[simp] theorem State.storeWord_txPoff (c : Config) (s : State) (b : Buf) (a : Nat) (v : Word) :
    (s.storeWord c b a v).txPoff = s.txPoff := by cases b <;> rfl
@[simp] theorem State.storeWord_txLen (c : Config) (s : State) (b : Buf) (a : Nat) (v : Word) :
    (s.storeWord c b a v).txLen = s.txLen := by cases b <;> rfl
@[simp] theorem State.storeWord_rxLen (c : Config) (s : State) (b : Buf) (a : Nat) (v : Word) :
    (s.storeWord c b a v).rxLen = s.rxLen := by cases b <;> rfl
@[simp] theorem State.storeWord_rxFlags (c : Config) (s : State) (b : Buf) (a : Nat) (v : Word) :
    (s.storeWord c b a v).rxFlags = s.rxFlags := by cases b <;> rfl
@[simp] theorem State.storeWord_rxSeq (c : Config) (s : State) (b : Buf) (a : Nat) (v : Word) :
    (s.storeWord c b a v).rxSeq = s.rxSeq := by cases b <;> rfl
@[simp] theorem State.storeWord_rxAck (c : Config) (s : State) (b : Buf) (a : Nat) (v : Word) :
    (s.storeWord c b a v).rxAck = s.rxAck := by cases b <;> rfl
@[simp] theorem State.storeWord_rxPoff (c : Config) (s : State) (b : Buf) (a : Nat) (v : Word) :
    (s.storeWord c b a v).rxPoff = s.rxPoff := by cases b <;> rfl
@[simp] theorem State.storeWord_rxPlen (c : Config) (s : State) (b : Buf) (a : Nat) (v : Word) :
    (s.storeWord c b a v).rxPlen = s.rxPlen := by cases b <;> rfl
@[simp] theorem State.storeWord_hoff (c : Config) (s : State) (b : Buf) (a : Nat) (v : Word) :
    (s.storeWord c b a v).hoff = s.hoff := by cases b <;> rfl
@[simp] theorem State.storeWord_hlen (c : Config) (s : State) (b : Buf) (a : Nat) (v : Word) :
    (s.storeWord c b a v).hlen = s.hlen := by cases b <;> rfl
@[simp] theorem State.storeWord_resets (c : Config) (s : State) (b : Buf) (a : Nat) (v : Word) :
    (s.storeWord c b a v).resets = s.resets := by cases b <;> rfl
@[simp] theorem State.storeWord_draw (c : Config) (s : State) (b : Buf) (a : Nat) (v : Word) :
    (s.storeWord c b a v).draw = s.draw := by cases b <;> rfl
@[simp] theorem State.storeWord_pending (c : Config) (s : State) (b : Buf) (a : Nat) (v : Word) :
    (s.storeWord c b a v).pending = s.pending := by cases b <;> rfl
@[simp] theorem State.storeWord_result (c : Config) (s : State) (b : Buf) (a : Nat) (v : Word) :
    (s.storeWord c b a v).result = s.result := by cases b <;> rfl

/-! ### Buffers -/

@[simp] theorem State.mem_setMem_same (s : State) (b : Buf) (m : Memory) : (s.setMem b m).mem b = m := by
  cases b <;> rfl

@[simp] theorem State.mem_setMem_other (s : State) {b b' : Buf} (m : Memory) (h : b' ≠ b) :
    (s.setMem b m).mem b' = s.mem b' := by
  cases b <;> cases b' <;> first | rfl | exact absurd rfl h

@[simp] theorem State.unwritten_setMem (c : Config) (s : State) (b b' : Buf) (m : Memory) :
    (s.setMem b m).unwritten c b' = s.unwritten c b' := by
  cases b <;> rfl

end Sys2Proof.Machine
end

