-- ==== Sys2Proof/Laws/Ops.lean ====
section
/-! SUPPORT. What the shared operations on a state's buffers do: what a store leaves to be read in every buffer, spans,
big-endian fields. -/

namespace Sys2Proof.Machine

variable {c : Config}

/-! ### Stores and loads -/

/-- A load after a byte store. -/
theorem State.load_store (s : State) (b b' : Buf) (a x : Nat) (v : Byte) :
    (s.store c b a v).load c b' x = if b' = b ∧ x = a then v else s.load c b' x := by
  unfold State.load State.store
  by_cases hb : b' = b
  · subst hb; simp [Memory.read_write]
  · simp [hb]

/-- A load after bytes are stored at rising offsets. -/
theorem State.load_storeAll (s : State) (b b' : Buf) (a x : Nat) (vs : List Byte) :
    (s.storeAll c b a vs).load c b' x =
      if b' = b ∧ a ≤ x ∧ x < a + vs.length then vs.getD (x - a) 0#8 else s.load c b' x := by
  unfold State.load State.storeAll
  by_cases hb : b' = b
  · subst hb; simp [Memory.read_writeAll]
  · simp [hb]

@[simp] theorem length_be32 (v : Word) : (be32 v).length = 4 := rfl

/-- A load after a 32-bit store. -/
theorem State.load_storeWord (s : State) (b b' : Buf) (a x : Nat) (v : Word) :
    (s.storeWord c b a v).load c b' x =
      if b' = b ∧ a ≤ x ∧ x < a + 4 then (be32 v).getD (x - a) 0#8 else s.load c b' x :=
  s.load_storeAll b b' a x (be32 v)

@[simp] theorem State.load_finish (s : State) (r : ResultCode) (b : Buf) (a : Nat) :
    (s.finish r).load c b a = s.load c b a := by cases b <;> rfl

@[simp] theorem State.load_answer (s : State) (v : Word) (b : Buf) (a : Nat) :
    (s.answer v).load c b a = s.load c b a := by cases b <;> rfl

@[simp] theorem State.load_place (s : State) (w : TWord) (b : Buf) (a : Nat) :
    (s.place w).load c b a = s.load c b a := by cases b <;> rfl

/-- After a reset event an offset holds the free value of the new draw. -/
@[simp] theorem State.load_afterReset (s : State) (b : Buf) (a : Nat) :
    (s.afterReset c).load c b a = c.resetByte (s.afterReset c).draw b a := by cases b <;> rfl

/-! ### Spans -/

@[simp] theorem State.length_bytes (s : State) (b : Buf) (a n : Nat) : (s.bytes c b a n).length = n :=
  Memory.length_span _ _ _

theorem State.getD_bytes (s : State) (b : Buf) {a n i : Nat} (h : i < n) :
    (s.bytes c b a n).getD i 0#8 = s.load c b (a + i) := Memory.getD_span h

/-- Two spans are equal when they load equal bytes. -/
theorem State.bytes_congr {s t : State} {b b' : Buf} {a n : Nat}
    (h : ∀ i, i < n → s.load c b (a + i) = t.load c b' (a + i)) : s.bytes c b a n = t.bytes c b' a n := by
  unfold State.bytes
  exact Memory.span_congr h

theorem State.bytes_append (s : State) (b : Buf) (a n k : Nat) :
    s.bytes c b a (n + k) = s.bytes c b a n ++ s.bytes c b (a + n) k := Memory.span_append _ _ _ _

/-- A span equals a byte sequence when it loads its bytes. -/
theorem State.bytes_eq {s : State} {b : Buf} {a n : Nat} {vs : List Byte} (hn : vs.length = n)
    (h : ∀ i, i < n → s.load c b (a + i) = vs.getD i 0#8) : s.bytes c b a n = vs := by
  apply List.ext_getElem (by simp [hn])
  intro i h1 h2
  rw [← List.getD_eq_getElem (hn := h1) (d := 0#8), ← List.getD_eq_getElem (hn := h2) (d := 0#8),
    s.getD_bytes b (by omega), h i (by omega)]

/-- A span without its first bytes. -/
theorem State.drop_bytes (s : State) (b : Buf) {a n k : Nat} (h : k ≤ n) :
    (s.bytes c b a n).drop k = s.bytes c b (a + k) (n - k) := by
  obtain ⟨j, rfl⟩ := Nat.exists_eq_add_of_le h
  rw [State.bytes_append, List.drop_append_of_le_length (by simp), List.drop_of_length_le (by simp)]
  simp

/-! ### Big-endian fields -/

/-- The bytes of a 32-bit value, put together again, are the value (R33). -/
@[simp] theorem ofBe32_be32 (v : Word) :
    ofBe32 (v.extractLsb' 24 8) (v.extractLsb' 16 8) (v.extractLsb' 8 8) (v.extractLsb' 0 8) = v := by
  apply BitVec.eq_of_getLsbD_eq
  intro i hi
  unfold ofBe32
  simp only [BitVec.getLsbD_append, BitVec.getLsbD_extractLsb']
  by_cases h1 : i < 8
  · simp [h1]
  · by_cases h2 : i - 8 < 8
    · simp [h1, h2, show 8 + (i - 8) = i by omega]
    · by_cases h3 : i - 8 - 8 < 8
      · simp [h1, h2, h3, show 16 + (i - 8 - 8) = i by omega]
      · simp [h1, h2, h3, show 24 + (i - 8 - 8 - 8) = i by omega, show i - 8 - 8 - 8 < 8 by omega]

theorem ofBe32_injective {a b d e a' b' d' e' : Byte} (h : ofBe32 a b d e = ofBe32 a' b' d' e') :
    a = a' ∧ b = b' ∧ d = d' ∧ e = e' := by
  have key : ∀ i, (ofBe32 a b d e).getLsbD i = (ofBe32 a' b' d' e').getLsbD i := fun i => by rw [h]
  unfold ofBe32 at key
  simp only [BitVec.getLsbD_append] at key
  refine ⟨?_, ?_, ?_, ?_⟩ <;> apply BitVec.eq_of_getLsbD_eq <;> intro i hi
  · simpa [hi, show ¬(i + 24 < 8) by omega, show ¬(i + 16 < 8) by omega, show ¬(i + 8 < 8) by omega] using key (i + 24)
  · simpa [hi, show ¬(i + 16 < 8) by omega, show ¬(i + 8 < 8) by omega] using key (i + 16)
  · simpa [hi, show ¬(i + 8 < 8) by omega] using key (i + 8)
  · simpa [hi] using key i

/-- A 32-bit load of bytes just stored. -/
theorem State.loadWord_storeWord (s : State) (b : Buf) (a : Nat) (v : Word) :
    (s.storeWord c b a v).loadWord c b a = v := by
  unfold State.loadWord
  rw [s.load_storeWord, s.load_storeWord, s.load_storeWord, s.load_storeWord,
    if_pos (by simp), if_pos (by simp), if_pos (by simp), if_pos (by simp)]
  simp [be32]

/-- Two 32-bit loads are equal when their bytes are. -/
theorem State.loadWord_congr {s t : State} {b b' : Buf} {a a' : Nat}
    (h : ∀ i, i < 4 → s.load c b (a + i) = t.load c b' (a' + i)) : s.loadWord c b a = t.loadWord c b' a' := by
  unfold State.loadWord
  rw [show s.load c b a = t.load c b' a' from h 0 (by omega), h 1 (by omega), h 2 (by omega), h 3 (by omega)]

/-- A 32-bit load does not see a store that ends before it or begins after it. -/
theorem State.loadWord_storeAll_apart (s : State) (b b' : Buf) (a o : Nat) (vs : List Byte)
    (h : b' ≠ b ∨ o + 4 ≤ a ∨ a + vs.length ≤ o) :
    (s.storeAll c b a vs).loadWord c b' o = s.loadWord c b' o := by
  apply State.loadWord_congr
  intro i hi
  rw [s.load_storeAll, if_neg]
  rintro ⟨hb, h1, h2⟩
  rcases h with h | h | h
  · exact h hb
  · omega
  · omega

/-! ### The canonical form of a state's buffers -/

/-- Bytes stored inside a buffer keep every buffer in canonical form. -/
theorem State.wf_storeAll {s : State} (b : Buf) {a : Nat} {vs : List Byte} (ha : a + vs.length ≤ c.bufSize b)
    (h : ∀ x : Buf, Memory.wf (s.unwritten c x) (c.bufSize x) (s.mem x)) (x : Buf) :
    Memory.wf ((s.storeAll c b a vs).unwritten c x) (c.bufSize x) ((s.storeAll c b a vs).mem x) := by
  unfold State.storeAll
  rw [State.unwritten_setMem]
  by_cases hx : x = b
  · subst hx
    rw [State.mem_setMem_same]
    exact Memory.wf_writeAll ha (h x)
  · rw [State.mem_setMem_other _ _ hx]
    exact h x

/-- A byte stored inside a buffer keeps every buffer in canonical form. -/
theorem State.wf_store {s : State} (b : Buf) {a : Nat} (v : Byte) (ha : a < c.bufSize b)
    (h : ∀ x : Buf, Memory.wf (s.unwritten c x) (c.bufSize x) (s.mem x)) (x : Buf) :
    Memory.wf ((s.store c b a v).unwritten c x) (c.bufSize x) ((s.store c b a v).mem x) :=
  State.wf_storeAll (vs := [v]) b (by simpa using ha) h x

/-- After a reset event every buffer is in canonical form. -/
theorem State.wf_afterReset (s : State) (x : Buf) :
    Memory.wf ((s.afterReset c).unwritten c x) (c.bufSize x) ((s.afterReset c).mem x) := by
  cases x <;> exact Memory.wf_nil

end Sys2Proof.Machine
end

