-- ==== Sys2Proof/Laws/Commands.lean ====
section
/-! SUPPORT. What each command can do, said once: the state it answers in each of its cases. -/

namespace Sys2Proof.Machine

variable {c : Config}

/-! ### Stores in a row -/

theorem Memory.writeAll_append {bg : Nat → Byte} (m : Memory) (a : Nat) (vs ws : List Byte) :
    Memory.writeAll bg m a (vs ++ ws) = Memory.writeAll bg (Memory.writeAll bg m a vs) (a + vs.length) ws := by
  induction vs generalizing m a with
  | nil => simp [Memory.writeAll]
  | cons v vs ih =>
    rw [List.cons_append, Memory.writeAll, ih, Memory.writeAll, List.length_cons,
      show a + 1 + vs.length = a + (vs.length + 1) by omega]

/-- Two stores of neighbouring bytes are one. -/
theorem State.storeAll_storeAll (s : State) (b : Buf) (a : Nat) (vs ws : List Byte) :
    (s.storeAll c b a vs).storeAll c b (a + vs.length) ws = s.storeAll c b a (vs ++ ws) := by
  cases b <;> simp [State.storeAll, Memory.writeAll_append, State.setMem, State.mem] <;> rfl

theorem State.store_eq_storeAll (s : State) (b : Buf) (a : Nat) (v : Byte) :
    s.store c b a v = s.storeAll c b a [v] := by cases b <;> rfl

/-- A store in one buffer leaves the spans of another. -/
theorem State.bytes_storeAll_other (s : State) {b b' : Buf} (h : b' ≠ b) (a : Nat) (vs : List Byte) (o n : Nat) :
    (s.storeAll c b a vs).bytes c b' o n = s.bytes c b' o n :=
  State.bytes_congr fun i _ => by rw [s.load_storeAll, if_neg (fun hh => h hh.1)]

/-! ### ENCODE -/

/-- The block size gate (R62). -/
theorem blockTooLarge_eq_true (s : State) :
    blockTooLarge c s = true ↔ flagSet s.txFlags .blk = true ∧ payloadCap c s.txFlags < s.txPlen.toNat := by
  simp only [blockTooLarge, Bool.and_eq_true, decide_eq_true_eq]

/-- The bytes of the frame after its checksum field (R68). -/
def bodyBytes (c : Config) (s : State) : List Byte :=
  pureBody c s.txFlags s.txSeq s.txAck (s.bytes c .pwin 0 (placedCount c s))

theorem length_bodyBytes (s : State) : (bodyBytes c s).length + 4 = frameLen c s := by
  rw [bodyBytes, length_pureBody, State.length_bytes, frameLen]

/-- The stores of R60 before the checksum are one store of the body. -/
theorem putBody_eq (s : State) : putBody c s = s.storeAll c .txf 4 (bodyBytes c s) := by
  have h1 : putVersionFlags c s = s.storeAll c .txf 4 [c.version, s.txFlags] := by
    unfold putVersionFlags
    rw [State.store_eq_storeAll, State.store_eq_storeAll]
    exact s.storeAll_storeAll .txf 4 [c.version] [s.txFlags]
  have h2 : ∀ hd : List Byte, hd.length = 2 → putSeq c (s.storeAll c .txf 4 hd) =
      s.storeAll c .txf 4 (hd ++ if hasSeq s.txFlags then be32 s.txSeq else []) := by
    intro hd hl
    unfold putSeq seqOff State.storeWord
    simp only [State.storeAll_txFlags, State.storeAll_txSeq]
    split
    · have := s.storeAll_storeAll (c := c) .txf 4 hd (be32 s.txSeq)
      rwa [hl] at this
    · simp
  have h3 : ∀ hd : List Byte, hd.length + 4 = ackOff s.txFlags → putAck c (s.storeAll c .txf 4 hd) =
      s.storeAll c .txf 4 (hd ++ if hasAck s.txFlags then be32 s.txAck else []) := by
    intro hd hl
    unfold putAck State.storeWord
    simp only [State.storeAll_txFlags, State.storeAll_txAck]
    split
    · have := s.storeAll_storeAll (c := c) .txf 4 hd (be32 s.txAck)
      rwa [show 4 + hd.length = ackOff s.txFlags by omega] at this
    · simp
  have h4 : ∀ hd : List Byte, hd.length + 4 = hdrLen s.txFlags → putPayload c (s.storeAll c .txf 4 hd) =
      s.storeAll c .txf 4 (hd ++ s.bytes c .pwin 0 (placedCount c s)) := by
    intro hd hl
    unfold putPayload
    have hp : placedCount c (s.storeAll c .txf 4 hd) = placedCount c s := rfl
    rw [hp, s.bytes_storeAll_other (by decide), State.storeAll_txFlags,
      show hdrLen s.txFlags = 4 + hd.length by omega, s.storeAll_storeAll]
  unfold putBody bodyBytes pureBody
  rw [h1, h2 _ rfl, h3 _ (by unfold ackOff; split <;> simp), h4 _ ?_]
  unfold hdrLen
  split <;> split <;> simp

/-- What an ENCODE that passes the size gate answers (R60). -/
theorem encodeCommand_fits {s : State} (h : blockTooLarge c s = false) :
    encodeCommand c s =
      { (s.storeAll c .txf 4 (bodyBytes c s)).storeAll c .txf 0 (be32 (c.hash (bodyBytes c s))) with
        csum := c.hash (bodyBytes c s)
        txPoff := BitVec.ofNat 32 (hdrLen s.txFlags)
        txPdone := BitVec.ofNat 32 (placedCount c s)
        txLen := BitVec.ofNat 32 (frameLen c s)
        status := 0#8 } := by
  have hb : (s.storeAll c .txf 4 (bodyBytes c s)).bytes c .txf 4 (frameLen c s - 4) = bodyBytes c s := by
    rw [← length_bodyBytes s, Nat.add_sub_cancel]
    exact Memory.span_writeAll _ _ _
  unfold encodeCommand
  rw [h, putBody_eq]
  unfold sealFrame
  simp only [hb]
  rfl

/-- What an ENCODE that fails the size gate answers (R62). -/
theorem encodeCommand_tooLarge {s : State} (h : blockTooLarge c s = true) :
    encodeCommand c s = { s with status := 4#8 } := by
  unfold encodeCommand; rw [h]; rfl

/-- The frame fits the buffer (R61, R63). -/
theorem frameLen_le (s : State) : frameLen c s ≤ c.buflen := by
  have h := hdrLen_add_cap c s.txFlags
  unfold frameLen placedCount
  split <;> omega

theorem frameLen_ge (s : State) : 6 ≤ frameLen c s := by
  have := hdrLen_ge s.txFlags
  unfold frameLen; omega

/-- What `TXF` holds after an ENCODE that passes the size gate: the frame, and beyond it the bytes of before (R60, R64). -/
theorem load_encodeCommand {s : State} (h : blockTooLarge c s = false) (x : Nat) :
    (encodeCommand c s).load c .txf x =
      if x < frameLen c s then (pureFrame c (bodyBytes c s)).getD x 0#8 else s.load c .txf x := by
  have hl := length_bodyBytes (c := c) s
  have he : (encodeCommand c s).load c .txf x =
      ((s.storeAll c .txf 4 (bodyBytes c s)).storeAll c .txf 0 (be32 (c.hash (bodyBytes c s)))).load c .txf x := by
    rw [encodeCommand_fits h]; rfl
  rw [he, State.load_storeAll, State.load_storeAll]
  unfold pureFrame
  simp only [length_be32, true_and, Nat.zero_le, Nat.zero_add]
  by_cases h4 : x < 4
  · rw [if_pos h4, if_pos (by omega), List.getD_append _ _ _ _ (by simpa using h4)]; simp
  · rw [if_neg h4]
    by_cases h5 : x < frameLen c s
    · rw [if_pos (by omega), if_pos h5, List.getD_append_right _ _ _ _ (by simpa using h4)]; simp
    · rw [if_neg (by omega), if_neg h5]

theorem length_pureFrame_body (s : State) : (pureFrame c (bodyBytes c s)).length = frameLen c s := by
  have := length_bodyBytes (c := c) s
  simp only [pureFrame, List.length_append, length_be32]
  omega

/-! ### DECODE -/

/-- What DECODE answers once the length checks pass (R70, R71). -/
theorem decodeCommand_checked {s : State} (h1 : s.rxLen.toNat ≤ c.buflen) (h2 : 6 ≤ s.rxLen.toNat) :
    decodeCommand c s =
      checkFrame c s.rxLen.toNat { s with csum := c.hash (s.bytes c .rxf 4 (s.rxLen.toNat - 4)) } := by
  unfold decodeCommand
  rw [if_neg (by omega), if_neg (by omega)]

/-- DECODE leaves one of four things: a failed length check, or, with `CSUM` recomputed, a failed later check or the
extracted message. -/
theorem decodeCommand_cases (s : State) :
    decodeCommand c s = s.finish .unknown ∨ decodeCommand c s = s.finish .short ∨
    (∃ r ∈ [ResultCode.checksum, .version, .short],
      decodeCommand c s = { s with csum := c.hash (s.bytes c .rxf 4 (s.rxLen.toNat - 4)) }.finish r) ∨
    (hdrLen (s.load c .rxf 5) ≤ s.rxLen.toNat ∧ s.rxLen.toNat ≤ c.buflen ∧
      decodeCommand c s =
        (extractMessage c s.rxLen.toNat
          { s with csum := c.hash (s.bytes c .rxf 4 (s.rxLen.toNat - 4)) }).finish .ok) := by
  unfold decodeCommand
  split
  · exact .inl rfl
  · split
    · exact .inr (.inl rfl)
    · refine .inr (.inr ?_)
      unfold checkFrame
      split
      · exact .inl ⟨_, by simp, rfl⟩
      · split
        · exact .inl ⟨_, by simp, rfl⟩
        · split
          · exact .inl ⟨_, by simp, rfl⟩
          · next h1 h2 h3 h4 h5 => exact .inr ⟨Nat.le_of_not_lt h5, Nat.le_of_not_lt h1, rfl⟩

/-! ### APPEND_FIN and the checksum commands -/

/-- What APPEND_FIN answers for a legal used length (R80). -/
theorem appendFinCommand_legal {s : State} (h1 : 6 ≤ s.txLen.toNat) (h2 : s.txLen.toNat ≤ c.buflen) :
    appendFinCommand c s = (sealFrame c s.txLen.toNat (setFin c s)).finish .ok := by
  unfold appendFinCommand usedLenLegal
  simp [h1, h2]

/-- What APPEND_FIN answers for an illegal used length (R81). -/
theorem appendFinCommand_illegal {s : State} (h : s.txLen.toNat < 6 ∨ c.buflen < s.txLen.toNat) :
    appendFinCommand c s = s.finish .unknown := by
  have : usedLenLegal c s = false := by
    unfold usedLenLegal
    rcases h with h | h
    · simp [show ¬6 ≤ s.txLen.toNat by omega]
    · simp [show ¬s.txLen.toNat ≤ c.buflen by omega]
  unfold appendFinCommand
  simp [this]

/-- What `TXF` holds after APPEND_FIN for a legal used length: the new checksum, the marked flags byte, and the bytes of
before (R80). -/
theorem load_appendFinCommand {s : State} (h1 : 6 ≤ s.txLen.toNat) (h2 : s.txLen.toNat ≤ c.buflen) (x : Nat) :
    (appendFinCommand c s).load c .txf x =
      if x < 4 then (be32 (appendFinCommand c s).csum).getD x 0#8
      else if x = 5 then s.load c .txf 5 ||| flagMask .fin else s.load c .txf x := by
  have e : ∀ v, v = (appendFinCommand c s).csum → (appendFinCommand c s).load c .txf x =
      ((setFin c s).storeWord c .txf 0 v).load c .txf x := by
    rintro v rfl; rw [appendFinCommand_legal h1 h2]; rfl
  rw [e _ rfl, State.load_storeWord]
  simp only [true_and, Nat.zero_le, Nat.zero_add, Nat.sub_zero]
  split
  · rfl
  · unfold setFin; rw [State.load_store]; simp

/-- The checksum commands leave `CSUM` and `STATUS` only (R91, R92). -/
theorem hashCommand_cases (b : Buf) (s : State) :
    hashCommand c b s = s.finish .unknown ∨
      hashCommand c b s = { s with csum := c.hash (s.bytes c b s.hoff.toNat s.hlen.toNat) }.finish .ok := by
  unfold hashCommand; split
  · exact .inl rfl
  · exact .inr rfl

/-! ### Registers -/

/-- A host write of a register leaves the buffers and every register the engine writes (R94, R102). -/
theorem writeNumber_cases (s : State) (addr : Addr) (v : Word) :
    writeNumber s addr v = s ∨ writeNumber s addr v = { s with txFlags := v.setWidth 8 } ∨
    writeNumber s addr v = { s with txSeq := v } ∨ writeNumber s addr v = { s with txAck := v } ∨
    writeNumber s addr v = { s with txPlen := v } ∨ writeNumber s addr v = { s with txLen := v } ∨
    writeNumber s addr v = { s with rxLen := v } ∨ writeNumber s addr v = { s with hoff := v } ∨
    writeNumber s addr v = { s with hlen := v } := by
  unfold writeNumber
  cases regAt addr with
  | none => exact .inl rfl
  | some r => cases r <;> simp [writeReg]

/-! ### The step -/

/-- What a step can be: idle, reset, an instruction run, or a word refused (R7, R142, R103). -/
theorem step_cases (s : State) :
    (s.pending = [] ∧ step s = .next s) ∨
    (∃ rest, s.pending = .reset :: rest ∧
      step s = .next ({ s with pending := rest, result := none }.afterReset Config.active)) ∨
    (∃ w rest i, s.pending = .transaction w :: rest ∧ decode Config.active w = .ok i ∧
      step s = exec i { s with pending := rest, result := none }) ∨
    (∃ w rest e, s.pending = .transaction w :: rest ∧ decode Config.active w = .error e ∧
      step s = .refused (.notATransaction e)) := by
  unfold step State.fetch
  cases hp : s.pending with
  | nil => exact .inl ⟨rfl, rfl⟩
  | cons input rest =>
    cases input with
    | reset => exact .inr (.inl ⟨rest, rfl, rfl⟩)
    | transaction w =>
      cases hd : decode Config.active w with
      | ok i => exact .inr (.inr (.inl ⟨w, rest, i, rfl, hd, by simp [runWord, hd]⟩))
      | error e => exact .inr (.inr (.inr ⟨w, rest, e, rfl, hd, by simp [runWord, hd]⟩))

end Sys2Proof.Machine
end

