-- ==== Sys2Proof/Laws/Encoding.lean ====
section
/-! SUPPORT. The fields of a transaction word (spec/30_encoding.md R52): what each reads of a packed word, that a word is its
four fields, and what the command and buffer codes say. -/

namespace Sys2Proof

/-! ### The fields of a packed word -/

@[simp] theorem packWord_kind (k s : BitVec 4) (a : Addr) (d : Word) : (packWord k s a d).kind = k := by
  unfold packWord TWord.kind
  apply BitVec.eq_of_getLsbD_eq
  intro i hi
  simp only [BitVec.getLsbD_append, BitVec.getLsbD_extractLsb']
  simp [hi, show ¬60 + i < 32 by omega, show ¬60 + i - 32 < 24 by omega, show ¬60 + i - 32 - 24 < 4 by omega,
    show 60 + i - 32 - 24 - 4 = i by omega]

@[simp] theorem packWord_space (k s : BitVec 4) (a : Addr) (d : Word) : (packWord k s a d).space = s := by
  unfold packWord TWord.space
  apply BitVec.eq_of_getLsbD_eq
  intro i hi
  simp only [BitVec.getLsbD_append, BitVec.getLsbD_extractLsb']
  simp [hi, show ¬56 + i < 32 by omega, show ¬56 + i - 32 < 24 by omega, show 56 + i - 32 - 24 = i by omega]

@[simp] theorem packWord_addr (k s : BitVec 4) (a : Addr) (d : Word) : (packWord k s a d).addr = a := by
  unfold packWord TWord.addr
  apply BitVec.eq_of_getLsbD_eq
  intro i hi
  simp only [BitVec.getLsbD_append, BitVec.getLsbD_extractLsb']
  simp [hi]

@[simp] theorem packWord_data (k s : BitVec 4) (a : Addr) (d : Word) : (packWord k s a d).data = d := by
  unfold packWord TWord.data
  apply BitVec.eq_of_getLsbD_eq
  intro i hi
  simp only [BitVec.getLsbD_append, BitVec.getLsbD_extractLsb']
  simp [hi]

/-- `data[31:8]` is part of `data`. -/
theorem TWord.dataUpper_eq (w : TWord) : w.dataUpper = w.data.extractLsb' 8 24 := by
  unfold TWord.dataUpper TWord.data
  apply BitVec.eq_of_getLsbD_eq
  intro i hi
  simp only [BitVec.getLsbD_extractLsb']
  simp [hi, show 8 + i < 32 by omega]

/-- `data[7:0]` is part of `data`. -/
theorem TWord.dataByte_eq (w : TWord) : w.dataByte = w.data.extractLsb' 0 8 := by
  unfold TWord.dataByte TWord.data
  apply BitVec.eq_of_getLsbD_eq
  intro i hi
  simp only [BitVec.getLsbD_extractLsb']
  simp [hi, show i < 32 by omega]

@[simp] theorem packWord_dataUpper (k s : BitVec 4) (a : Addr) (d : Word) :
    (packWord k s a d).dataUpper = d.extractLsb' 8 24 := by rw [TWord.dataUpper_eq, packWord_data]

@[simp] theorem packWord_dataByte (k s : BitVec 4) (a : Addr) (d : Word) :
    (packWord k s a d).dataByte = d.extractLsb' 0 8 := by rw [TWord.dataByte_eq, packWord_data]

/-- A zero-extended byte has no upper bits. -/
@[simp] theorem upper_of_byte (v : Byte) : (v.setWidth 32).extractLsb' 8 24 = 0#24 := by
  apply BitVec.eq_of_getLsbD_eq
  intro i hi
  simp [hi]

/-- The low byte of a zero-extended byte is the byte. -/
@[simp] theorem low_of_byte (v : Byte) : (v.setWidth 32).extractLsb' 0 8 = v := by
  apply BitVec.eq_of_getLsbD_eq
  intro i hi
  simp only [BitVec.getLsbD_extractLsb', BitVec.getLsbD_setWidth]
  simp [hi, show i < 32 by omega]

/-! ### A word is its fields -/

theorem packWord_fields (w : TWord) : packWord w.kind w.space w.addr w.data = w := by
  unfold packWord TWord.kind TWord.space TWord.addr TWord.data
  apply BitVec.eq_of_getLsbD_eq
  intro i hi
  simp only [BitVec.getLsbD_append, BitVec.getLsbD_extractLsb']
  by_cases h1 : i < 32
  · simp [h1]
  · by_cases h2 : i - 32 < 24
    · simp [h1, h2, show 32 + (i - 32) = i by omega]
    · by_cases h3 : i - 32 - 24 < 4
      · simp [h1, h2, h3, show 56 + (i - 32 - 24) = i by omega]
      · simp [h1, h2, h3, show 60 + (i - 32 - 24 - 4) = i by omega, show i - 32 - 24 - 4 < 4 by omega]

/-- With no upper bits, `data` is its low byte, zero-extended. -/
theorem TWord.data_of_upper {w : TWord} (h : w.dataUpper = 0#24) : w.dataByte.setWidth 32 = w.data := by
  apply BitVec.eq_of_getLsbD_eq
  intro i hi
  unfold TWord.dataByte TWord.data
  by_cases h1 : i < 8
  · simp [h1, hi]
  · have := congrArg (fun v : BitVec 24 => v.getLsbD (i - 8)) h
    unfold TWord.dataUpper at this
    simp [show i - 8 < 24 by omega, show 8 + (i - 8) = i by omega] at this
    simp [BitVec.getLsbD_extractLsb', h1, hi, this]

/-! ### Codes -/

/-- The reserved command codes are those the five commands do not have (R53, R54). -/
theorem isReservedCode_eq_true (code : Word) :
    isReservedCode code = true ↔ code ≠ 1#32 ∧ code ≠ 2#32 ∧ code ≠ 3#32 ∧ code ≠ 4#32 ∧ code ≠ 5#32 := by
  constructor
  · intro h
    refine ⟨?_, ?_, ?_, ?_, ?_⟩ <;> (rintro rfl; revert h; decide)
  · rintro ⟨h1, h2, h3, h4, h5⟩
    by_contra hc
    simp only [isReservedCode, Bool.or_eq_true, decide_eq_true_eq, beq_iff_eq] at hc
    have code_eq : ∀ k, code.toNat = k → k < 6 → code = BitVec.ofNat 32 k := fun k h hk => by
      apply BitVec.eq_of_toNat_eq; rw [h]; simp; omega
    have : code.toNat = 1 ∨ code.toNat = 2 ∨ code.toNat = 3 ∨ code.toNat = 4 ∨ code.toNat = 5 := by omega
    rcases this with h | h | h | h | h
    · exact h1 (code_eq _ h (by omega))
    · exact h2 (code_eq _ h (by omega))
    · exact h3 (code_eq _ h (by omega))
    · exact h4 (code_eq _ h (by omega))
    · exact h5 (code_eq _ h (by omega))

theorem commandOf_reserved {code : Word} (h : isReservedCode code = true) : commandOf code = .cmdRsvd code := by
  obtain ⟨h1, h2, h3, h4, h5⟩ := (isReservedCode_eq_true code).mp h
  unfold commandOf
  simp [h1, h2, h3, h4, h5]

/-- The word of the command a code starts is the write of that code to `CMD` (R53, R54). -/
theorem encode_commandOf (code : Word) : encode (commandOf code) = packWord 1#4 0#4 0#24 code := by
  unfold commandOf
  split_ifs <;> (try subst code) <;> rfl

/-- The command a code starts is well-formed. -/
theorem commandOf_wellFormed (c : Config) (code : Word) : (commandOf code).WellFormed c := by
  unfold commandOf
  split_ifs with h1 h2 h3 h4 h5 <;> first | rfl | exact (isReservedCode_eq_true code).mpr ⟨h1, h2, h3, h4, h5⟩

/-- A space code that selects a buffer is that buffer's code (R30). -/
theorem bufOfSpace_eq_some {sp : BitVec 4} {b : Buf} (h : bufOfSpace sp = some b) : sp = b.space := by
  unfold bufOfSpace at h
  split_ifs at h <;> simp_all [Buf.space] <;> subst h <;> rfl

@[simp] theorem bufOfSpace_space (b : Buf) : bufOfSpace b.space = some b := by cases b <;> rfl

/-- A register number is one of the twenty, or reserved (R11, R26). -/
theorem addr_named_or_reserved (a : Addr) : (∃ k : Fin 20, a = BitVec.ofNat 24 k.val) ∨ 20 ≤ a.toNat := by
  by_cases h : a.toNat < 20
  · exact .inl ⟨⟨a.toNat, h⟩, by simp⟩
  · exact .inr (by omega)

@[simp] theorem regAt_number (r : Reg) : regAt r.number = some r := by cases r <;> rfl

end Sys2Proof
end

