-- ==== Sys2Proof/Laws/PerInstr.lean ====
section
/-! SUPPORT. A family of statements made for each instruction as syntax: the fields of its word (spec/30_encoding.md R52,
R55). -/

namespace Sys2Proof.Laws

/-- No field of the instruction's word but `addr` makes the word a reserved one (R55): `kind` and `space` are codes of R52, a
read has no data, a buffer write has a byte. -/
def Fields.Statement (i : Instr) : Prop :=
  ((encode i).kind = 1#4 ∨ ((encode i).kind = 2#4 ∧ (encode i).data = 0#32)) ∧
    ((encode i).space = 0#4 ∨ (bufOfSpace (encode i).space ≠ none ∧ (encode i).dataUpper = 0#24))

theorem Fields.encode : Fields.Statement .encode := ⟨.inl (packWord_kind _ _ _ _), .inl (packWord_space _ _ _ _)⟩

theorem Fields.decode : Fields.Statement .decode := ⟨.inl (packWord_kind _ _ _ _), .inl (packWord_space _ _ _ _)⟩

theorem Fields.appendFin : Fields.Statement .appendFin :=
  ⟨.inl (packWord_kind _ _ _ _), .inl (packWord_space _ _ _ _)⟩

theorem Fields.hashTx : Fields.Statement .hashTx := ⟨.inl (packWord_kind _ _ _ _), .inl (packWord_space _ _ _ _)⟩

theorem Fields.hashRx : Fields.Statement .hashRx := ⟨.inl (packWord_kind _ _ _ _), .inl (packWord_space _ _ _ _)⟩

theorem Fields.cmdRsvd (code : Word) : Fields.Statement (.cmdRsvd code) :=
  ⟨.inl (packWord_kind _ _ _ _), .inl (packWord_space _ _ _ _)⟩

theorem Fields.wrreg (addr : Addr) (data : Word) : Fields.Statement (.wrreg addr data) :=
  ⟨.inl (packWord_kind _ _ _ _), .inl (packWord_space _ _ _ _)⟩

theorem Fields.rdreg (addr : Addr) : Fields.Statement (.rdreg addr) :=
  ⟨.inr ⟨packWord_kind _ _ _ _, packWord_data _ _ _ _⟩, .inl (packWord_space _ _ _ _)⟩

/-- A buffer write's word. -/
theorem Fields.of_byte_write {i : Instr} {b : Buf} {addr : Addr} {v : Byte}
    (h : Sys2Proof.encode i = packWord 1#4 b.space addr (v.setWidth 32)) : Fields.Statement i := by
  unfold Fields.Statement
  rw [h]
  simp

/-- A buffer read's word. -/
theorem Fields.of_byte_read {i : Instr} {b : Buf} {addr : Addr}
    (h : Sys2Proof.encode i = packWord 2#4 b.space addr 0#32) : Fields.Statement i := by
  unfold Fields.Statement
  rw [h]
  simp

theorem Fields.wrbTxf (addr : Addr) (data : Byte) : Fields.Statement (.wrbTxf addr data) :=
  Fields.of_byte_write (b := .txf) rfl

theorem Fields.rdbTxf (addr : Addr) : Fields.Statement (.rdbTxf addr) := Fields.of_byte_read (b := .txf) rfl

theorem Fields.wrbRxf (addr : Addr) (data : Byte) : Fields.Statement (.wrbRxf addr data) :=
  Fields.of_byte_write (b := .rxf) rfl

theorem Fields.rdbRxf (addr : Addr) : Fields.Statement (.rdbRxf addr) := Fields.of_byte_read (b := .rxf) rfl

theorem Fields.wrbPwin (addr : Addr) (data : Byte) : Fields.Statement (.wrbPwin addr data) :=
  Fields.of_byte_write (b := .pwin) rfl

theorem Fields.rdbPwin (addr : Addr) : Fields.Statement (.rdbPwin addr) := Fields.of_byte_read (b := .pwin) rfl

end Sys2Proof.Laws
end

