-- ==== Sys2Proof/Tests/Slice0.lean ====
section
/-! SUPPORT. The model's own tests. First the well-formedness checks and the decoder; then the vectors of
spec/95_test_vectors.md, one command each, in the reference configuration they are computed for; last, for each obligation
with hypotheses, a named witness that meets them in the machine's own configuration, which is not known. -/

open Sys2Proof Sys2Proof.Machine Sys2Proof.Claims

namespace Sys2Proof.Tests
set_option maxRecDepth 20000

/-! ### Well-formedness: an ill-formed term for each check is refused (R53, R54, R30) -/

theorem test_reserved_code_check : (Instr.cmdRsvd 1#32).wellFormed Config.reference = false ∧
    (Instr.cmdRsvd 5#32).wellFormed Config.reference = false ∧ (Instr.cmdRsvd 0#32).wellFormed Config.reference = true ∧
    (Instr.cmdRsvd 6#32).wellFormed Config.reference = true := by decide

theorem test_register_zero_check : (Instr.wrreg 0#24 7#32).wellFormed Config.reference = false ∧
    (Instr.wrreg 0xFFFFFF#24 7#32).wellFormed Config.reference = true := by decide

theorem test_txf_offset_check : (Instr.wrbTxf 512#24 0#8).wellFormed Config.reference = false ∧
    (Instr.rdbTxf 512#24).wellFormed Config.reference = false ∧
    (Instr.wrbTxf 511#24 0#8).wellFormed Config.reference = true := by decide

theorem test_rxf_offset_check : (Instr.wrbRxf 512#24 0#8).wellFormed Config.reference = false ∧
    (Instr.rdbRxf 512#24).wellFormed Config.reference = false ∧
    (Instr.rdbRxf 511#24).wellFormed Config.reference = true := by decide

theorem test_pwin_offset_check : (Instr.wrbPwin 506#24 0#8).wellFormed Config.reference = false ∧
    (Instr.rdbPwin 506#24).wellFormed Config.reference = false ∧
    (Instr.rdbPwin 505#24).wellFormed Config.reference = true := by decide

/-! ### Decoding: words of R53, R54, R56 and of vectors X2, X3, W1, W7, W9, W12 to W16 -/

theorem test_decode_command_rows : decode Config.reference 0x1000000000000003#64 = .ok .appendFin ∧
    decode Config.reference 0x1000000000000006#64 = .ok (.cmdRsvd 6#32) ∧
    decode Config.reference 0x1000000000000101#64 = .ok (.cmdRsvd 0x101#32) := by decide

theorem test_decode_register_rows : decode Config.reference 0x1000000500000132#64 = .ok (.wrreg 5#24 0x132#32) ∧
    decode Config.reference 0x1000001400000005#64 = .ok (.wrreg 0x14#24 5#32) ∧
    decode Config.reference 0x20FFFFFF00000000#64 = .ok (.rdreg 0xFFFFFF#24) := by decide

theorem test_decode_buffer_rows : decode Config.reference 0x11000005000000AA#64 = .ok (.wrbTxf 5#24 0xAA#8) ∧
    decode Config.reference 0x2200000C00000000#64 = .ok (.rdbRxf 12#24) ∧
    decode Config.reference 0x1300000600000033#64 = .ok (.wrbPwin 6#24 0x33#8) := by decide

theorem test_decode_refuses : decode Config.reference 0x1100020000000000#64 = .error .outsideBuffer ∧
    decode Config.reference 0x3000000000000000#64 = .error .reservedKind ∧
    decode Config.reference 0x1400000000000000#64 = .error .reservedSpace ∧
    decode Config.reference 0x1100000000000100#64 = .error .upperDataBits ∧
    decode Config.reference 0x2000000100000001#64 = .error .readData := by decide

theorem test_tableWord_keeps_bits : decodeTableWord 64 0x130000000000007F = some (.wrbPwin 0#24 0x7F#8) ∧
    decodeTableWord 64 0x3000000000000000 = none := by decide

/-! ### ENCODE: vectors E6, T2, T4 -/

/-- E6: DAT and ACK, payload `00 FF`. -/
def e6 : State :=
  { State.reset with
    txFlags := 0x12#8, txSeq := 0x01020304#32, txAck := 0xA0B0C0D0#32, txPlen := 2#32, pwin := [(1, 0xFF#8)] }

theorem test_encode_E6_frame : (encodeCommand Config.reference e6).bytes Config.reference .txf 0 16 =
    [0x72#8, 0x03#8, 0xBA#8, 0x03#8, 0x01#8, 0x12#8, 0x01#8, 0x02#8, 0x03#8, 0x04#8, 0xA0#8, 0xB0#8, 0xC0#8, 0xD0#8,
      0x00#8, 0xFF#8] := by decide

/-- T2 and T4: `BUFLEN` 16, every buffer byte 0xEE before; "6789" in the window. -/
def t2 (f : Byte) (plen : Word) : State :=
  { State.reset with
    txFlags := f, txSeq := 6#32, txAck := 1#32, txPlen := plen,
    pwin := [(0, 0x36#8), (1, 0x37#8), (2, 0x38#8), (3, 0x39#8)] }

theorem test_encode_T2_T4_gates :
    (encodeCommand Config.reference16 (t2 0x12#8 4#32)).bytes Config.reference16 .txf 0 16 =
      [0x45#8, 0x59#8, 0x9C#8, 0x7D#8, 0x01#8, 0x12#8, 0x00#8, 0x00#8, 0x00#8, 0x06#8, 0x00#8, 0x00#8, 0x00#8, 0x01#8,
        0x36#8, 0x37#8] ∧
      (encodeCommand Config.reference16 (t2 0x12#8 4#32)).txPdone = 2#32 ∧
      encodeCommand Config.reference16 (t2 0x20#8 11#32) = { t2 0x20#8 11#32 with status := 4#8 } := by decide

/-! ### DECODE: vectors D5, D13, D15, D16a, D19, D20 -/

/-- The bytes received at the start of a reset state's `RXF`. -/
def receiving (bytes : List Byte) : State :=
  loaded.foldl (fun s p => s.store Config.reference .rxf p.1 p.2)
    { State.reset with rxLen := BitVec.ofNat 32 bytes.length }
where
  loaded := (List.range bytes.length).zip bytes

/-- The outcome of DECODE in the reference configuration: `STATUS` and `CSUM`. -/
def outcome (bytes : List Byte) : Byte × Word :=
  let t := decodeCommand Config.reference (receiving bytes)
  (t.status, t.csum)

theorem test_decode_D5_fields :
    let t := decodeCommand Config.reference (receiving [0x72#8, 0x03#8, 0xBA#8, 0x03#8, 0x01#8, 0x12#8, 0x01#8, 0x02#8,
      0x03#8, 0x04#8, 0xA0#8, 0xB0#8, 0xC0#8, 0xD0#8, 0x00#8, 0xFF#8])
    t.status = 0#8 ∧ t.rxFlags = 0x12#8 ∧ t.rxSeq = 0x01020304#32 ∧ t.rxAck = 0xA0B0C0D0#32 ∧ t.rxPoff = 14#32 ∧
      t.rxPlen = 2#32 := by decide

theorem test_decode_check_order :
    outcome [0x2F#8, 0xC5#8, 0x13#8, 0x28#8, 0x01#8, 0x03#8] = (3#8, 0xC1CB7204#32) ∧
    outcome [0x2F#8, 0xC5#8, 0x13#8, 0x28#8, 0x02#8, 0x01#8] = (3#8, 0x04E840EB#32) ∧
    outcome [0xB6#8, 0xCC#8, 0x42#8, 0x92#8, 0x01#8, 0x02#8] = (2#8, 0xB6CC4292#32) ∧
    outcome [0x9D#8, 0xE1#8, 0x11#8, 0x51#8, 0x02#8, 0x02#8] = (1#8, 0x9DE11151#32) ∧
    outcome [0x2F#8, 0xE6#8, 0xE5#8, 0x8A#8, 0x01#8, 0x01#8, 0xDE#8, 0xAD#8] = (0#8, 0x2FE6E58A#32) := by decide

/-! ### APPEND_FIN: vectors A2, A6 -/

/-- The frame of A2 in `TXF`, with a used length. -/
def a2 (len : Word) : State :=
  { State.reset with
    txLen := len
    txf := [(0, 0x4D#8), (1, 0xBD#8), (2, 0x8D#8), (3, 0xC0#8), (4, 0x01#8), (5, 0x10#8), (8, 0x01#8), (9, 0xFA#8),
      (10, 0x78#8), (11, 0x79#8), (12, 0x7A#8)] }

theorem test_appendFin_A2_frame : (appendFinCommand Config.reference (a2 13#32)).bytes Config.reference .txf 0 13 =
    [0xC9#8, 0xF7#8, 0x83#8, 0x3A#8, 0x01#8, 0x14#8, 0x00#8, 0x00#8, 0x01#8, 0xFA#8, 0x78#8, 0x79#8, 0x7A#8] := by
  decide

theorem test_appendFin_A6_A7_lengths :
    appendFinCommand Config.reference (a2 5#32) = { a2 5#32 with status := 13#8 } ∧
    appendFinCommand Config.reference (a2 513#32) = { a2 513#32 with status := 13#8 } := by decide

/-! ### HASH_TX and HASH_RX: vectors H1, H3, H5, H7 -/

/-- E1 in `TXF` and E3 in `RXF`, with a span. -/
def span (off len : Word) : State :=
  { State.reset with
    hoff := off, hlen := len, csum := 0x77#32
    txf := [(0, 0x2F#8), (1, 0xC5#8), (2, 0x13#8), (3, 0x28#8), (4, 0x01#8), (5, 0x01#8)]
    rxf := [(0, 0x9E#8), (1, 0x3A#8), (2, 0xB4#8), (3, 0xC5#8), (4, 0x01#8), (5, 0x02#8), (9, 0x07#8)] }

theorem test_hashTx_H1_H3 : (hashCommand Config.reference .txf (span 4#32 2#32)).csum = 0x2FC51328#32 ∧
    (hashCommand Config.reference .txf (span 512#32 0#32)).csum = 0x00000000#32 := by decide

theorem test_hashTx_H5_no_wrap : hashCommand Config.reference .txf (span 0xFFFFFFFF#32 1#32) =
    { span 0xFFFFFFFF#32 1#32 with status := 13#8 } := by decide

theorem test_hashRx_H7_H8 : (hashCommand Config.reference .rxf (span 4#32 6#32)).csum = 0x9E3AB4C5#32 ∧
    (hashCommand Config.reference .rxf (span 0#32 4#32)).csum = 0x3E80744E#32 := by decide

/-! ### Host accesses: vectors X3, W1 to W10 -/

/-- A state with something in every register these vectors touch. -/
def used : State := { State.reset with status := 2#8, rxSeq := 9#32, txFlags := 0x10#8 }

theorem test_cmdRsvd_X3 : exec (.cmdRsvd 0x101#32) used = .next { used with status := 13#8 } := rfl

theorem test_wrreg_W1_keeps_low_byte :
    exec (.wrreg 5#24 0x132#32) used = .next { used with txFlags := 0x32#8 } := rfl

theorem test_wrreg_W2_W4_W7_ignored : exec (.wrreg 1#24 7#32) used = .next used ∧
    exec (.wrreg 0x0E#24 5#32) used = .next used ∧ exec (.wrreg 0x14#24 5#32) used = .next used := ⟨rfl, rfl, rfl⟩

theorem test_rdreg_W5_W8_zero : exec (.rdreg 0#24) used = .next { used with result := some 0#32 } ∧
    exec (.rdreg 0x14#24) used = .next { used with result := some 0#32 } := ⟨rfl, rfl⟩

theorem test_rdreg_reads : exec (.rdreg 1#24) used = .next { used with result := some 2#32 } ∧
    exec (.rdreg 0x0E#24) used = .next { used with result := some 9#32 } := ⟨rfl, rfl⟩

theorem test_pwin_W10 : hostStore Config.reference .pwin 0#24 0x47#8 State.reset =
      .next { State.reset with pwin := [(0, 0x47#8)] } ∧
    hostLoad Config.reference .pwin 0#24 { State.reset with pwin := [(0, 0x47#8)] } =
      .next { State.reset with pwin := [(0, 0x47#8)], result := some 0x47#32 } := ⟨rfl, rfl⟩

theorem test_txf_W12_refused : hostStore Config.reference .txf 512#24 0#8 State.reset =
      .refused (.outsideBuffer .txf 512#24) ∧
    hostLoad Config.reference .rxf 512#24 State.reset = .refused (.outsideBuffer .rxf 512#24) := ⟨rfl, rfl⟩

/-! ### The step (R7, R103, R142) -/

theorem test_step_runs_placed_word :
    step (State.reset.withFetchWord 64 0x1000000B00000005) = .next { State.reset with txLen := 5#32 } := rfl

theorem test_step_refuses_W14 :
    step (State.reset.withFetchWord 64 0x1400000000000000) = .refused (.notATransaction .reservedSpace) := rfl

theorem test_reset_clears_registers : ({ used with txLen := 9#32 }.afterReset Config.reference).txLen = 0#32 ∧
    ({ used with txLen := 9#32 }.afterReset Config.reference).resets = 1 := by decide

/-! ### The host's software: S5, Scenario A, Scenario C -/

/-- A decoded reply with flags and acknowledgment number. -/
def reply (f : Byte) (n : Word) : State := { State.reset with rxFlags := f, rxAck := n }

theorem test_bulkVerdict_scenario_A : bulkVerdict 7 (reply 0x02#8 7#32) = .ok ∧
    bulkVerdict 7 (reply 0x02#8 6#32) = .noAck := by decide

theorem test_bulkMove_size_gate : bulkMove { State.reset with status := 4#8 } = .fail .blockTooLarge ∧
    bulkMove { State.reset with txLen := 1#32 } = .send [.rdreg 0x0B#24, .rdbTxf 0#24] := by decide

theorem test_lockOn_scenario_C :
    lockOn { ReceiveState.start with peer := some ⟨1, 2⟩ } ⟨1, 3⟩ = none ∧
    lockOn ReceiveState.start ⟨1, 3⟩ = some { ReceiveState.start with peer := some ⟨1, 3⟩ } := by decide

/-! ### Witnesses: the encodings and the step -/

theorem witness_DecodeEncodeRoundTrip : (Instr.wrbTxf 13#24 0xFF#8).WellFormed Config.active ∧
    (Instr.rdbPwin 7#24).WellFormed Config.active ∧ (Instr.cmdRsvd 0xFFFFFFFF#32).WellFormed Config.active ∧
    (Instr.wrreg 1#24 0#32).WellFormed Config.active ∧ (Instr.rdreg 0xFFFFFF#24).WellFormed Config.active := by decide

/-- The last byte of `TXF` and of `PWIN`, whatever `BUFLEN` is. -/
theorem last_offset (n : Nat) (h1 : 0 < n) (h2 : n ≤ 16777216) : (BitVec.ofNat 24 (n - 1)).toNat = n - 1 := by
  simp; omega

theorem witness_DecodeEncodeRoundTrip_last_byte :
    (Instr.wrbTxf (BitVec.ofNat 24 (Config.active.buflen - 1)) 0#8).WellFormed Config.active ∧
    (Instr.wrbPwin (BitVec.ofNat 24 (Config.active.buflen - 6 - 1)) 0#8).WellFormed Config.active := by
  have h1 := buflen_ge Config.active
  have h2 := buflen_le Config.active
  constructor
  · simp only [Instr.WellFormed, Instr.wellFormed, inBuffer_eq_true, bufSize_txf]
    rw [last_offset _ (by omega) h2]; omega
  · simp only [Instr.WellFormed, Instr.wellFormed, inBuffer_eq_true, bufSize_pwin]
    rw [last_offset _ (by omega) (by omega)]; omega

theorem witness_EncodeDecodeRoundTrip :
    decode Config.active 0x1300000700000047#64 = .ok (.wrbPwin 7#24 0x47#8) := by decide

/-- A state whose host still has an input. -/
def awaiting (i : HostInput) : State := { State.reset with pending := [i] }

theorem witness_StepRefusesExactlyReservedWords :
    Refuses (step (awaiting (.transaction 0x3000000000000000#64))) ∧ ReservedWord 0x3000000000000000#64 ∧
    ReservedWord 0x1400000000000000#64 ∧ ReservedWord 0x1100000000000100#64 ∧ ReservedWord 0x2000000100000001#64 :=
  ⟨⟨_, rfl⟩, .inl (by decide), .inr (.inl (by decide)), .inr (.inr (.inr (.inr (.inl (by decide))))),
    .inr (.inr (.inr (.inr (.inr (by decide)))))⟩

/-- The last offset a word can hold lies outside `PWIN`, whatever `BUFLEN` is. -/
theorem witness_StepRefusesExactlyReservedWords_pwin : ReservedWord 0x13FFFFFF00000000#64 := by
  have h := buflen_le Config.active
  refine .inr (.inr (.inr (.inl ⟨by decide, ?_⟩)))
  show Config.active.buflen - 6 ≤ 16777215
  omega

theorem witness_ExecAnswersExactlyWellFormed : Answers (exec .hashRx used) ∧ Refuses (exec (.wrreg 0#24 1#32) used) ∧
    Refuses (exec (.cmdRsvd 3#32) used) := ⟨⟨_, rfl⟩, ⟨_, rfl⟩, ⟨_, rfl⟩⟩

theorem witness_StepRunsDecodedInstruction :
    (awaiting (.transaction 0x1000000000000004#64)).pending = .transaction 0x1000000000000004#64 :: [] ∧
    decode Config.active 0x1000000000000004#64 = .ok .hashTx := ⟨rfl, by decide⟩

theorem witness_StepWithoutInputHoldsState : used.pending = [] := rfl

theorem witness_ResetEventState : (awaiting .reset).pending = .reset :: [] := rfl

/-- A state with the invariant whose step runs ENCODE: nothing written yet but an operand. -/
theorem witness_StepKeepsInvariant :
    Inv Config.active { awaiting (.transaction 0x1000000000000001#64) with txSeq := 3#32 } ∧
    Answers (step { awaiting (.transaction 0x1000000000000001#64) with txSeq := 3#32 }) :=
  ⟨⟨fun b => by cases b <;> exact Memory.wf_nil, by decide, .inl ⟨rfl, rfl⟩, .inl ⟨rfl, rfl, rfl, rfl, rfl⟩⟩, ⟨_, rfl⟩⟩

theorem witness_EqualReadsAreEqualData : Memory.wf (fun _ => 0#8) 16 [(3, 1#8), (15, 2#8)] ∧
    ∀ a, Memory.read (fun _ => 0#8) [(3, 1#8), (15, 2#8)] a = Memory.read (fun _ => 0#8) [(3, 1#8), (15, 2#8)] a :=
  ⟨by decide, fun _ => rfl⟩

/-! ### Witnesses: host accesses -/

theorem witness_WrregWritesRegister : (1#24 ≠ 0#24) ∧ registerWritten used 0x04#24 6#32 = used ∧
    registerWritten used 0x05#24 0x106#32 = { used with txFlags := 6#8 } ∧
    registerWritten used 0x06#24 6#32 = { used with txSeq := 6#32 } ∧
    registerWritten used 0x07#24 6#32 = { used with txAck := 6#32 } ∧
    registerWritten used 0x08#24 6#32 = { used with txPlen := 6#32 } ∧
    registerWritten used 0x09#24 6#32 = used ∧ registerWritten used 0x0A#24 6#32 = used ∧
    registerWritten used 0x0B#24 6#32 = { used with txLen := 6#32 } ∧
    registerWritten used 0x0C#24 6#32 = { used with rxLen := 6#32 } ∧ registerWritten used 0x0D#24 6#32 = used ∧
    registerWritten used 0x11#24 6#32 = used ∧ registerWritten used 0x12#24 6#32 = { used with hoff := 6#32 } ∧
    registerWritten used 0x13#24 6#32 = { used with hlen := 6#32 } ∧ registerWritten used 0x14#24 6#32 = used := by decide

theorem witness_WriteThenReadRegister : (0x05#24 ≠ 0#24) ∧
    registerView (registerWritten used 0x05#24 0x106#32) 0x05#24 = 6#32 ∧
    registerView (registerWritten used 0x13#24 0x106#32) 0x13#24 = 0x106#32 ∧
    registerView (registerWritten used 0x0E#24 0x106#32) 0x0E#24 = 9#32 ∧
    registerView (registerWritten used 0x13#24 0x106#32) 0x12#24 = 0#32 := by decide

theorem witness_ReservedRegisterNumbers : 0x14 ≤ (0x14#24).toNat ∧ 0x14 ≤ (0xFFFFFF#24).toNat := by decide

theorem witness_ByteWritesStoreOneByte : (13#24).toNat < Config.active.buflen ∧ (7#24).toNat < Config.active.buflen - 6 ∧
    (BitVec.ofNat 24 (Config.active.buflen - 1)).toNat < Config.active.buflen ∧
    (BitVec.ofNat 24 (Config.active.buflen - 6 - 1)).toNat < Config.active.buflen - 6 := by
  have h1 := buflen_ge Config.active
  have h2 := buflen_le Config.active
  refine ⟨?_, ?_, ?_, ?_⟩
  · show 13 < _; omega
  · show 7 < _; omega
  · rw [last_offset _ (by omega) h2]; omega
  · rw [last_offset _ (by omega) (by omega)]; omega

/-- The same offsets are read. -/
theorem witness_ByteReadsReturnByte : (13#24).toNat < Config.active.buflen ∧ (7#24).toNat < Config.active.buflen - 6 :=
  ⟨witness_ByteWritesStoreOneByte.1, witness_ByteWritesStoreOneByte.2.1⟩

/-- Both sides of the boundary occur: offset 0xFFFFFF is outside `PWIN`, and outside `TXF` and `RXF` too but for the largest
legal `BUFLEN`, 2^24; offset 13 is inside them. -/
theorem witness_BufferAccessOutsideRefused : Config.active.buflen - 6 ≤ (0xFFFFFF#24).toNat ∧
    (Config.active.buflen < 2 ^ 24 → Config.active.buflen ≤ (0xFFFFFF#24).toNat) ∧
    ¬Config.active.buflen ≤ (13#24).toNat := by
  have h1 := buflen_ge Config.active
  have h2 := buflen_le Config.active
  have h3 : (0xFFFFFF#24).toNat = 16777215 := rfl
  have h4 : (13#24).toNat = 13 := rfl
  omega

theorem witness_HostAccessesKeepEngineRegisters : isCommand (.wrreg 1#24 7#32) = false ∧
    exec (.wrreg 1#24 7#32) used = .next used ∧ isCommand (.rdbTxf 0#24) = false ∧ Answers (exec (.rdbTxf 0#24) used) :=
  ⟨rfl, rfl, rfl, ⟨_, rfl⟩⟩

/-! ### Witnesses: commands -/

theorem witness_CommandsDoNotReadStatus : isCommand .decode = true ∧ isCommand (.cmdRsvd 0#32) = true := by decide

theorem witness_CommandsKeepOperands : isCommand .encode = true ∧ Answers (exec .encode used) ∧
    isCommand (.cmdRsvd 6#32) = true ∧ Answers (exec (.cmdRsvd 6#32) used) := ⟨rfl, ⟨_, rfl⟩, rfl, ⟨_, rfl⟩⟩

theorem witness_ReservedCommandResult : (0#32 ∉ [1#32, 2#32, 3#32, 4#32, 5#32]) ∧
    (6#32 ∉ [1#32, 2#32, 3#32, 4#32, 5#32]) ∧ (0xFFFFFFFF#32 ∉ [1#32, 2#32, 3#32, 4#32, 5#32]) := by decide

theorem byte_succ_ne : ∀ v : Byte, v + 1#8 ≠ v := by decide

/-- A byte write of `RXF` that changes the byte, whatever it was. -/
theorem witness_OnlyTheseInputsChangeAByte : ∃ s t : State, step s = .next t ∧
    t.load Config.active .rxf 9 ≠ s.load Config.active .rxf 9 := by
  let v : Byte := State.reset.load Config.active .rxf 9 + 1#8
  let i : Instr := .wrbRxf 9#24 v
  refine ⟨awaiting (.transaction (encode i)), State.reset.store Config.active .rxf 9 v, ?_, ?_⟩
  · have hin : inBuffer Config.active .rxf 9#24 = true := by decide
    have hd : decode Config.active (encode i) = .ok i := by
      simp [i, encode, decode, decodeWrite, bufOfSpace, writeByteOf, hin]
    show runWord (encode i) _ = _
    unfold runWord
    rw [hd]
    show hostStore Config.active .rxf 9#24 v _ = _
    unfold hostStore
    rw [hin]
    rfl
  · rw [State.load_store, if_pos ⟨rfl, rfl⟩]
    exact byte_succ_ne _

/-! ### Witnesses: ENCODE and APPEND_FIN -/

/-- Transmit operands in a reset state. -/
def offering (f : Byte) (plen : Word) : State := { State.reset with txFlags := f, txPlen := plen }

/-- BLK: more than fits, nothing at all, and exactly what fits. -/
theorem witness_BlockSizeGate : flagSet (offering 0x20#8 0xFFFFFFFF#32).txFlags .blk = true ∧
    Config.active.buflen - hdrLen 0x20#8 < (offering 0x20#8 0xFFFFFFFF#32).txPlen.toNat ∧
    (offering 0x20#8 0#32).txPlen.toNat ≤ Config.active.buflen - hdrLen 0x20#8 ∧
    (offering 0x20#8 (BitVec.ofNat 32 (Config.active.buflen - 6))).txPlen.toNat =
      Config.active.buflen - hdrLen 0x20#8 := by
  have h := buflen_le Config.active
  have hd : hdrLen 0x20#8 = 6 := by decide
  rw [hd]
  refine ⟨by decide, ?_, ?_, ?_⟩
  · show _ < 4294967295; omega
  · show 0 ≤ _; omega
  · simp [offering]; omega

/-- The same states lie on both sides of the gate. -/
theorem witness_EncodeWritesFrame : blockTooLarge Config.active (offering 0x20#8 0xFFFFFFFF#32) = true ∧
    ¬(flagSet (offering 0x12#8 0xFFFFFFFF#32).txFlags .blk = true) :=
  ⟨(blockTooLarge_eq_true _).mpr ⟨witness_BlockSizeGate.1, witness_BlockSizeGate.2.1⟩, by decide⟩

theorem witness_EncodeTruncatesDat : flagSet (offering 0x10#8 0xFFFFFFFF#32).txFlags .dat = true ∧
    flagSet (offering 0x10#8 0xFFFFFFFF#32).txFlags .blk = false ∧
    Config.active.buflen - hdrLen 0x10#8 < (offering 0x10#8 0xFFFFFFFF#32).txPlen.toNat := by
  have h := buflen_le Config.active
  refine ⟨by decide, by decide, ?_⟩
  show _ < 4294967295
  omega

theorem witness_EncodeComputesPureFunction : ∃ payload : List Byte,
    payload.length = (offering 0x10#8 2#32).txPlen.toNat ∧
    ∀ i, i < payload.length → i < Config.active.buflen - 6 →
      (offering 0x10#8 2#32).load Config.active .pwin i = byteAt payload i := by
  refine ⟨(offering 0x10#8 2#32).bytes Config.active .pwin 0 2, rfl, fun i hi _ => ?_⟩
  rw [byteAt, State.getD_bytes _ _ (by simpa using hi), Nat.zero_add]

/-- A SYN frame is always encoded. -/
theorem encode_syn : exec .encode (offering 0x01#8 0#32) = .next (encodeCommand Config.active (offering 0x01#8 0#32)) ∧
    (encodeCommand Config.active (offering 0x01#8 0#32)).status = 0#8 ∧
    (encodeCommand Config.active (offering 0x01#8 0#32)).txLen = 6#32 := by
  refine ⟨rfl, ?_, ?_⟩
  · rw [encodeCommand_fits (by rfl)]
  · rw [encodeCommand_fits (by rfl)]; rfl

theorem witness_EncodeProducesValidFrame : ∃ s t : State, exec .encode s = .next t ∧ t.status = 0#8 :=
  ⟨_, _, encode_syn.1, encode_syn.2.1⟩

/-- The frame of `encode_syn` carried into `RXF`. -/
theorem witness_EncodeDecodeMessageRoundTrip : ∃ s t u : State, exec .encode s = .next t ∧ t.status = 0#8 ∧
    u.rxLen = t.txLen ∧ ∀ i, i < t.txLen.toNat → u.load Config.active .rxf i = t.load Config.active .txf i := by
  let t := encodeCommand Config.active (offering 0x01#8 0#32)
  refine ⟨_, t, { t.storeAll Config.active .rxf 0 (t.bytes Config.active .txf 0 6) with rxLen := t.txLen },
    encode_syn.1, encode_syn.2.1, rfl, fun i hi => ?_⟩
  have h6 : i < 6 := by rw [encode_syn.2.2] at hi; exact hi
  show (t.storeAll Config.active .rxf 0 (t.bytes Config.active .txf 0 6)).load Config.active .rxf i = _
  rw [State.load_storeAll, if_pos ⟨rfl, by omega, by simpa using h6⟩, Nat.sub_zero, State.getD_bytes _ _ h6, Nat.zero_add]

theorem witness_EncodeTwice : ∃ s t : State, exec .encode s = .next t := ⟨_, _, encode_syn.1⟩

theorem witness_EncodeDependsOnlyOnOperands :
    let s := offering 0x01#8 0#32
    let s' := { offering 0x01#8 0#32 with csum := 7#32, rxLen := 9#32 }
    s.txFlags = s'.txFlags ∧ s.txSeq = s'.txSeq ∧ s.txAck = s'.txAck ∧ s.txPlen = s'.txPlen ∧
    (∀ i, i < Config.active.buflen - 6 → s.load Config.active .pwin i = s'.load Config.active .pwin i) ∧
    Answers (exec .encode s) ∧ Answers (exec .encode s') :=
  ⟨rfl, rfl, rfl, rfl, fun _ _ => rfl, ⟨_, rfl⟩, ⟨_, rfl⟩⟩

/-- A used length in a reset state. -/
def usedLen (n : Word) : State := { State.reset with txLen := n }

theorem witness_AppendFinResult : 6 ≤ (usedLen 6#32).txLen.toNat ∧ (usedLen 6#32).txLen.toNat ≤ Config.active.buflen ∧
    (usedLen (BitVec.ofNat 32 Config.active.buflen)).txLen.toNat = Config.active.buflen ∧
    ¬(6 ≤ (usedLen 5#32).txLen.toNat) := by
  have h1 := buflen_ge Config.active
  have h2 := buflen_le Config.active
  refine ⟨by decide, ?_, ?_, by decide⟩
  · show 6 ≤ _; omega
  · simp [usedLen]; omega

theorem witness_AppendFinBadLength : (usedLen 5#32).txLen.toNat < 6 ∧
    Config.active.buflen < (usedLen (BitVec.ofNat 32 (Config.active.buflen + 1))).txLen.toNat := by
  have h := buflen_le Config.active
  refine ⟨by decide, ?_⟩
  simp [usedLen]; omega

theorem witness_AppendFinEqualsEncodingFin : ∃ s t : State, exec .encode s = .next t ∧ t.status = 0#8 :=
  witness_EncodeProducesValidFrame

theorem witness_AppendFinTwice : Answers (exec .appendFin (usedLen 6#32)) ∧ Answers (exec .appendFin (usedLen 5#32)) :=
  ⟨⟨_, rfl⟩, ⟨_, rfl⟩⟩

/-! ### Witnesses: DECODE -/

/-- Six bytes received: a checksum field, a version byte and a flags byte. -/
def six (sum : Word) (v f : Byte) : State :=
  { State.reset.storeAll Config.active .rxf 0 (be32 sum ++ [v, f]) with rxLen := 6#32 }

theorem six_load (sum : Word) (v f : Byte) {i : Nat} (h : i < 6) :
    (six sum v f).load Config.active .rxf i = (be32 sum ++ [v, f]).getD i 0#8 := by
  show (State.reset.storeAll Config.active .rxf 0 (be32 sum ++ [v, f])).load Config.active .rxf i = _
  rw [State.load_storeAll, if_pos ⟨rfl, by omega, by simpa using h⟩, Nat.sub_zero]

theorem six_sum (sum : Word) (v f : Byte) : (six sum v f).loadWord Config.active .rxf 0 = sum := by
  unfold State.loadWord
  rw [six_load _ _ _ (by omega), six_load _ _ _ (by omega), six_load _ _ _ (by omega), six_load _ _ _ (by omega)]
  simp [be32]

theorem six_version (sum : Word) (v f : Byte) : (six sum v f).load Config.active .rxf 4 = v := by
  rw [six_load _ _ _ (by omega)]; rfl

theorem six_flags (sum : Word) (v f : Byte) : (six sum v f).load Config.active .rxf 5 = f := by
  rw [six_load _ _ _ (by omega)]; rfl

theorem six_recomputed (sum : Word) (v f : Byte) : recomputed (six sum v f) = Config.active.hash [v, f] := by
  unfold recomputed
  congr 1
  refine State.bytes_eq rfl fun i hi => ?_
  have : i < 2 := hi
  rw [six_load _ _ _ (by omega)]
  interval_cases i <;> rfl

/-- Six bytes with the checksum they should have. -/
abbrev sealedSix (v f : Byte) : State := six (Config.active.hash [v, f]) v f

theorem length_le_buflen : (6 : Nat) ≤ Config.active.buflen := by have := buflen_ge Config.active; omega

theorem sealedSix_valid : ValidFrame Config.active (received (sealedSix Config.active.version 0x01#8)) := by
  have hb : ∀ i, i < 6 → byteAt (received (sealedSix Config.active.version 0x01#8)) i =
      (sealedSix Config.active.version 0x01#8).load Config.active .rxf i := by
    intro i hi
    show (State.bytes _ _ _ 0 6).getD i 0#8 = _
    rw [State.getD_bytes _ _ hi, Nat.zero_add]
  refine ⟨?_, ?_, ?_, ?_, ?_⟩
  · show 6 ≤ (State.bytes _ _ _ 0 6).length; simp
  · show (State.bytes _ _ _ 0 6).length ≤ _; simpa using length_le_buflen
  · unfold wordAt
    rw [hb _ (by omega), hb _ (by omega), hb _ (by omega), hb _ (by omega)]
    have h1 := six_sum (Config.active.hash [Config.active.version, 0x01#8]) Config.active.version 0x01#8
    have h2 := six_recomputed (Config.active.hash [Config.active.version, 0x01#8]) Config.active.version 0x01#8
    unfold State.loadWord at h1
    rw [h1, ← h2]
    show Config.active.hash _ = Config.active.hash ((State.bytes _ _ _ 0 6).drop 4)
    rw [State.drop_bytes _ _ (by omega)]
    rfl
  · rw [hb _ (by omega), six_version]
  · rw [hb _ (by omega), six_flags]
    show 6 ≤ (State.bytes _ _ _ 0 6).length
    simp

theorem witness_DecodeFailureState : ∃ t, exec .decode State.reset = .next t ∧ t.status ≠ 0#8 := by
  refine ⟨{ State.reset with status := 2#8 }, ?_, by decide⟩
  show Host.Outcome.next (decodeCommand Config.active State.reset) = _
  unfold decodeCommand
  rw [if_neg (by show ¬Config.active.buflen < 0; omega), if_pos (by decide)]
  rfl

theorem witness_DecodeExtractsMessage : ∃ s : State, s.rxLen.toNat ≤ Config.active.buflen ∧
    ValidFrame Config.active (received s) := ⟨sealedSix Config.active.version 0x01#8, length_le_buflen, sealedSix_valid⟩

theorem witness_DecodeComputesPureFunction : State.reset.rxLen.toNat ≤ Config.active.buflen ∧
    (sealedSix Config.active.version 0x01#8).rxLen.toNat ≤ Config.active.buflen := ⟨Nat.zero_le _, length_le_buflen⟩

theorem witness_DecodeSucceedsExactlyOnValidFrames : ∃ s : State, s.rxLen.toNat ≤ Config.active.buflen ∧
    ValidFrame Config.active (received s) := witness_DecodeExtractsMessage

/-- One bit of the flags byte, and one of the checksum field, flipped in a valid frame. -/
theorem witness_ChecksumSensitivity : ∃ s : State, s.rxLen.toNat ≤ Config.active.buflen ∧
    ValidFrame Config.active (received s) ∧ ∀ p, p = 0 ∨ p = 5 → ∃ (s' : State) (j : Fin 8), s'.rxLen = s.rxLen ∧
      p < s.rxLen.toNat ∧ s'.load Config.active .rxf p = s.load Config.active .rxf p ^^^ (1#8 <<< j.val) ∧
      ∀ x, x < s.rxLen.toNat → x ≠ p → s'.load Config.active .rxf x = s.load Config.active .rxf x := by
  refine ⟨sealedSix Config.active.version 0x01#8, length_le_buflen, sealedSix_valid, fun p hp => ?_⟩
  let s := sealedSix Config.active.version 0x01#8
  refine ⟨s.store Config.active .rxf p (s.load Config.active .rxf p ^^^ (1#8 <<< 7)), 7, rfl, ?_, ?_, ?_⟩
  · show p < 6; omega
  · rw [State.load_store, if_pos ⟨rfl, rfl⟩]; rfl
  · intro x _ hx
    rw [State.load_store, if_neg fun h => hx h.2]

/-- A wrong checksum, and a foreign version under a right one. -/
theorem witness_ChecksumThenVersionCheck : ∃ s s' : State,
    6 ≤ s.rxLen.toNat ∧ s.rxLen.toNat ≤ Config.active.buflen ∧ recomputed s ≠ s.loadWord Config.active .rxf 0 ∧
    6 ≤ s'.rxLen.toNat ∧ s'.rxLen.toNat ≤ Config.active.buflen ∧ recomputed s' = s'.loadWord Config.active .rxf 0 ∧
    s'.load Config.active .rxf 4 ≠ Config.active.version := by
  refine ⟨six (Config.active.hash [1#8, 1#8] + 1#32) 1#8 1#8, sealedSix (Config.active.version + 1#8) 1#8, Nat.le_refl 6,
    length_le_buflen, ?_, Nat.le_refl 6, length_le_buflen, ?_, ?_⟩
  · rw [six_recomputed, six_sum]
    intro h
    have := congrArg (fun w => w - Config.active.hash [1#8, 1#8]) h
    simp [BitVec.add_comm] at this
  · rw [six_recomputed, six_sum]
  · rw [six_version]; exact byte_succ_ne _

/-- ACK declared in six bytes, and a header that ends with them. -/
theorem witness_OptionalFieldOverrun : ∀ f : Byte, f = 0x02#8 ∨ f = 0x00#8 →
    let s := sealedSix Config.active.version f
    6 ≤ s.rxLen.toNat ∧ s.rxLen.toNat ≤ Config.active.buflen ∧ recomputed s = s.loadWord Config.active .rxf 0 ∧
    s.load Config.active .rxf 4 = Config.active.version ∧
    (f = 0x02#8 → s.rxLen.toNat < hdrLen (s.load Config.active .rxf 5)) ∧
    (f = 0x00#8 → hdrLen (s.load Config.active .rxf 5) = s.rxLen.toNat) := by
  intro f _ s
  refine ⟨Nat.le_refl 6, length_le_buflen, ?_, six_version _ _ _, ?_, ?_⟩
  · rw [six_recomputed, six_sum]
  · rintro rfl; rw [six_flags]; decide
  · rintro rfl; rw [six_flags]; decide

/-- A received length in a reset state. -/
def receivedLen (n : Word) : State := { State.reset with rxLen := n }

theorem witness_DecodeLengthChecks : (receivedLen 5#32).rxLen.toNat < 6 ∧
    Config.active.buflen < (receivedLen (BitVec.ofNat 32 (Config.active.buflen + 1))).rxLen.toNat := by
  have h := buflen_le Config.active
  refine ⟨by decide, ?_⟩
  simp [receivedLen]; omega

theorem witness_DecodeTwice : Answers (exec .decode (sealedSix Config.active.version 0x01#8)) := ⟨_, rfl⟩

/-! ### Witnesses: the checksum engine -/

/-- A span at the very end of a buffer, one byte further, and one that would wrap. -/
theorem witness_HashTxResult :
    (span (BitVec.ofNat 32 Config.active.buflen) 0#32).hoff.toNat + 0 ≤ Config.active.buflen ∧
    Config.active.buflen < (span (BitVec.ofNat 32 Config.active.buflen) 1#32).hoff.toNat + 1 ∧
    Config.active.buflen < (span 0xFFFFFFFF#32 1#32).hoff.toNat + (span 0xFFFFFFFF#32 1#32).hlen.toNat ∧
    ∃ s t : State, exec .encode s = .next t ∧ t.status = 0#8 := by
  have h := buflen_le Config.active
  refine ⟨?_, ?_, ?_, witness_EncodeProducesValidFrame⟩
  · simp [span]; omega
  · simp [span]; omega
  · show _ < 4294967296; omega

theorem witness_HashRxResult : (span 4#32 6#32).hoff.toNat + (span 4#32 6#32).hlen.toNat ≤ Config.active.buflen ∧
    Config.active.buflen < (span 0xFFFFFFFF#32 1#32).hoff.toNat + (span 0xFFFFFFFF#32 1#32).hlen.toNat ∧
    ∃ s t : State, 6 ≤ s.rxLen.toNat ∧ s.rxLen.toNat ≤ Config.active.buflen ∧ exec .decode s = .next t := by
  have h := buflen_ge Config.active
  refine ⟨?_, witness_HashTxResult.2.2.1, sealedSix Config.active.version 0x01#8, _, Nat.le_refl 6, length_le_buflen, rfl⟩
  show 10 ≤ _
  omega

/-! ### Witnesses: hazards, pseudo-instructions, the host's software -/

theorem witness_TransmitFrameSurvivesReception : Answers (exec .decode used) ∧ Answers (exec .hashRx used) ∧
    Answers (exec (.wrbRxf 13#24 1#8) used) ∧ Answers (exec (.wrbPwin 7#24 1#8) used) ∧
    Answers (exec (.wrreg 0x0C#24 1#32) used) := ⟨⟨_, rfl⟩, ⟨_, rfl⟩, ⟨_, rfl⟩, ⟨_, rfl⟩, ⟨_, rfl⟩⟩

theorem witness_PseudoInstructionsWellFormed : [0x9E#8, 0x3A#8].length ≤ Config.active.buflen ∧
    (List.replicate Config.active.buflen 0#8).length ≤ Config.active.buflen ∧
    (usedLen 6#32).txLen.toNat ≤ Config.active.buflen := by
  have := buflen_ge Config.active
  refine ⟨?_, by simp, ?_⟩
  · show 2 ≤ _; omega
  · show 6 ≤ _; omega

/-- Nine and ten replies that repeat the confirmed number. -/
theorem witness_SenderFailsAtTenthDuplicate : (TransferState.start 3).dups = 0 ∧
    (∀ s ∈ List.replicate 9 (reply 0x02#8 0#32), s.status = 0#8 ∧ flagSet s.rxFlags .ack = true ∧
      s.rxAck.toNat = (TransferState.start 3).acked) ∧
    ∀ s ∈ List.replicate 10 (reply 0x02#8 0#32), s.status = 0#8 ∧ flagSet s.rxFlags .ack = true ∧
      s.rxAck.toNat = (TransferState.start 3).acked := by decide

/-- A payload that just fits, and one byte more. -/
theorem witness_BulkSenderReturnsOversized : ∀ n, n = Config.active.buflen - 6 ∨ n = Config.active.buflen - 6 + 1 →
    (offering 0x20#8 (bulkOffered (List.replicate n 0#8))).txFlags = 0x20#8 ∧
    (offering 0x20#8 (bulkOffered (List.replicate n 0#8))).txPlen = bulkOffered (List.replicate n 0#8) ∧
    (n = Config.active.buflen - 6 → (List.replicate n 0#8).length ≤ Config.active.buflen - 6) ∧
    (n = Config.active.buflen - 6 + 1 → Config.active.buflen - 6 < (List.replicate n 0#8).length) := by
  intro n _
  refine ⟨rfl, rfl, ?_, ?_⟩ <;> rw [List.length_replicate] <;> omega

theorem witness_ReceiverRepeatsTotal : { used with status := 3#8 }.status = 3#8 ∧
    ({ used with status := 0#8 }.status = 0#8 ∧
      { used with status := 0#8 }.rxSeq.toNat ≠ ReceiveState.start.received.length) := by decide

end Sys2Proof.Tests
end

section
/-! The step, one equation per case of the host's queue (spec/00_scope.md R7), and the statements of the scope family. -/

namespace Sys2Proof.Machine

/-! ### The host's next input -/

theorem State.fetch_of_pending_nil {s : State} (h : s.pending = []) : s.fetch = none := by
  simp [State.fetch, h]

theorem State.fetch_of_pending_cons {s : State} {input : HostInput} {rest : List HostInput}
    (h : s.pending = input :: rest) : s.fetch = some (input, { s with pending := rest, result := none }) := by
  simp [State.fetch, h]

/-! ### The step, by what is pending -/

theorem runWord_of_decode_ok {w : TWord} {i : Instr} (h : decode Config.active w = .ok i) (s : State) :
    runWord w s = exec i s := by
  simp [runWord, h]

/-- The idle step (R7, R139, R151; log entry 3). -/
theorem step_of_pending_nil {s : State} (h : s.pending = []) : step s = .next s := by
  simp [step, State.fetch_of_pending_nil h]

theorem step_of_pending_transaction {s : State} {w : TWord} {rest : List HostInput}
    (h : s.pending = .transaction w :: rest) :
    step s = runWord w { s with pending := rest, result := none } := by
  simp [step, State.fetch_of_pending_cons h]

end Sys2Proof.Machine

namespace Sys2Proof.Proofs
open Sys2Proof.Machine

/-- Settles O6: the step performs the word at the front of the queue, and a word that decodes runs its instruction. -/
theorem stepRunsDecodedInstruction : Obligations.StepRunsDecodedInstruction := by
  intro s w rest i hpending hdecode
  calc step s = runWord w { s with pending := rest, result := none } := step_of_pending_transaction hpending
    _ = exec i { s with pending := rest, result := none } := runWord_of_decode_ok hdecode _

/-- Settles O7: with an empty queue there is nothing to fetch, and the step is idle. -/
theorem stepWithoutInputHoldsState : Obligations.StepWithoutInputHoldsState :=
  fun _ hpending => step_of_pending_nil hpending

end Sys2Proof.Proofs
end

section
/-! The registers and the invariant: what the register operations read and store, what a host access and a command can
answer, what keeps the invariant, and the statements of the state family (spec/10_state.md). -/

namespace Sys2Proof

/-! ### Register numbers (R11, R26) -/

theorem addr_eq_number_or_reserved (a : Addr) : (∃ r : Reg, a = r.number) ∨ 20 ≤ a.toNat := by
  rcases addr_named_or_reserved a with ⟨k, rfl⟩ | h
  · exact .inl ⟨allRegs.get k, by revert k; decide⟩
  · exact .inr h

theorem Reg.number_toNat_lt (r : Reg) : r.number.toNat < 20 := by cases r <;> decide

theorem Reg.number_injective : Function.Injective Reg.number := fun r q h => by
  simpa using congrArg regAt h

theorem Reg.number_ne_of_reserved (r : Reg) {a : Addr} (h : 20 ≤ a.toNat) : a ≠ r.number := by
  rintro rfl
  exact absurd r.number_toNat_lt (by omega)

theorem regAt_of_reserved {a : Addr} (h : 20 ≤ a.toNat) : regAt a = none :=
  List.getElem?_eq_none h

/-- The configured `BUFLEN`, and every length up to it, fits a register. -/
theorem toNat_ofNat_of_le_buflen {c : Config} {n : Nat} (h : n ≤ c.buflen) : (BitVec.ofNat 32 n).toNat = n := by
  have := Machine.buflen_le c
  rw [BitVec.toNat_ofNat]
  omega

end Sys2Proof

namespace Sys2Proof.Machine

variable {c : Config} {s t : State}

/-! ### The register operations -/

@[simp] theorem readNumber_number (r : Reg) : readNumber c s r.number = readReg c s r := by
  simp [readNumber]

theorem readNumber_of_reserved {a : Addr} (h : 20 ≤ a.toNat) : readNumber c s a = 0#32 := by
  simp [readNumber, regAt_of_reserved h]

@[simp] theorem writeNumber_number (r : Reg) (v : Word) : writeNumber s r.number v = writeReg s r v := by
  simp [writeNumber]

theorem writeNumber_of_reserved {a : Addr} (v : Word) (h : 20 ≤ a.toNat) : writeNumber s a v = s := by
  simp [writeNumber, regAt_of_reserved h]

/-- The registers that store all 32 bits of a host write (R11, R94). -/
def wordRegs : List Reg := [.txSeq, .txAck, .txPlen, .txLen, .rxLen, .hoff, .hlen]

/-- Each register against each other one: a write reaches the register it names and no other (R94). -/
theorem readReg_writeReg (r q : Reg) (v : Word) :
    readReg c (writeReg s r v) q =
      if q = r then
        (if r = .txFlags then (v.setWidth 8).setWidth 32 else if r ∈ wordRegs then v else readReg c s r)
      else readReg c s q := by
  cases r <;> cases q <;> rfl

theorem setWidth_setWidth_eq_and_low_byte (v : Word) : (v.setWidth 8).setWidth 32 = v &&& 0xFF#32 := by
  apply BitVec.eq_of_toNat_eq
  have hmask : v.toNat &&& 255 = v.toNat % 256 := Nat.and_two_pow_sub_one_eq_mod v.toNat 8
  simp only [BitVec.toNat_setWidth, BitVec.toNat_and, BitVec.toNat_ofNat, Nat.reducePow, Nat.reduceMod, hmask]
  omega

/-- The two views of the register file agree: the table of R11 and the read operation of the model. -/
theorem registerView_eq_readNumber (s : State) (a : Addr) :
    Claims.registerView s a = readNumber Config.active s a := by
  rcases addr_eq_number_or_reserved a with ⟨r, rfl⟩ | h
  · cases r <;> rfl
  · obtain ⟨n, hn⟩ := Nat.exists_eq_add_of_le' h
    rw [readNumber_of_reserved h, Claims.registerView, hn]
    rfl

/-! ### What a host access answers (R94 to R103) -/

theorem exec_rdreg (a : Addr) (s : State) :
    exec (.rdreg a) s = .next { s with result := some (readNumber Config.active s a) } := rfl

theorem exec_wrreg {a : Addr} (h : a ≠ 0#24) (v : Word) (s : State) :
    exec (.wrreg a v) s = .next (writeNumber s a v) := if_neg h

theorem hostStore_next {b : Buf} {a : Addr} {v : Byte} (h : hostStore c b a v s = .next t) :
    a.toNat < c.bufSize b ∧ t = s.store c b a.toNat v := by
  unfold hostStore at h
  split at h
  · next hb => exact ⟨(inBuffer_eq_true c b a).mp hb, (Host.Outcome.next.inj h).symm⟩
  · cases h

theorem hostLoad_next {b : Buf} {a : Addr} (h : hostLoad c b a s = .next t) : ∃ v, t = s.answer v := by
  unfold hostLoad at h
  split at h
  · exact ⟨_, (Host.Outcome.next.inj h).symm⟩
  · cases h

/-- An access other than a command writes a register, returns a value, or stores a byte inside a buffer (R102). -/
theorem exec_hostAccess_cases {i : Instr} (hi : isCommand i = false) (h : exec i s = .next t) :
    (∃ a v, t = writeNumber s a v) ∨ (∃ v, t = s.answer v) ∨
      ∃ b a v, a < Config.active.bufSize b ∧ t = s.store Config.active b a v := by
  cases i with
  | encode | decode | appendFin | hashTx | hashRx | cmdRsvd => cases hi
  | wrreg a v =>
    by_cases ha : a = 0#24
    · subst ha; cases h
    · rw [exec_wrreg ha] at h
      exact .inl ⟨a, v, (Host.Outcome.next.inj h).symm⟩
  | rdreg a => exact .inr (.inl ⟨_, (Host.Outcome.next.inj h).symm⟩)
  | wrbTxf a v | wrbRxf a v | wrbPwin a v => exact .inr (.inr ⟨_, _, _, hostStore_next h⟩)
  | rdbTxf a | rdbRxf a | rdbPwin a => exact .inr (.inl (hostLoad_next h))

/-! ### What a command answers (R53, R54) -/

theorem execCmdRsvd_next {code : Word} (h : execCmdRsvd code s = .next t) : t = s.finish .unknown := by
  unfold execCmdRsvd at h
  split at h
  · exact (Host.Outcome.next.inj h).symm
  · cases h

/-- A command that answers does what one of the five does, or raises `E_UNKNOWN`. -/
theorem exec_command_cases {i : Instr} (hi : isCommand i = true) (h : exec i s = .next t) :
    t = encodeCommand Config.active s ∨ t = decodeCommand Config.active s ∨
      t = appendFinCommand Config.active s ∨ (∃ b, t = hashCommand Config.active b s) ∨ t = s.finish .unknown := by
  cases i with
  | encode => exact .inl (Host.Outcome.next.inj h).symm
  | decode => exact .inr (.inl (Host.Outcome.next.inj h).symm)
  | appendFin => exact .inr (.inr (.inl (Host.Outcome.next.inj h).symm))
  | hashTx | hashRx => exact .inr (.inr (.inr (.inl ⟨_, (Host.Outcome.next.inj h).symm⟩)))
  | cmdRsvd code => exact .inr (.inr (.inr (.inr (execCmdRsvd_next h))))
  | wrreg | rdreg | wrbTxf | rdbTxf | wrbRxf | rdbRxf | wrbPwin | rdbPwin => cases hi

/-- The state `s` with all that some command writes taken from `t`: the engine's registers, `TX_LEN` and `TXF`
(R12, R14, R17, R18, R13). -/
def State.withCommandEffects (s t : State) : State :=
  { s with
    status := t.status, csum := t.csum, txPdone := t.txPdone, txPoff := t.txPoff, txLen := t.txLen
    rxFlags := t.rxFlags, rxSeq := t.rxSeq, rxAck := t.rxAck, rxPoff := t.rxPoff, rxPlen := t.rxPlen
    txf := t.txf }

theorem encodeCommand_frame (s : State) : encodeCommand c s = s.withCommandEffects (encodeCommand c s) := by
  cases h : blockTooLarge c s with
  | true => rw [encodeCommand_tooLarge h]; rfl
  | false => simp only [encodeCommand_fits h, State.withCommandEffects, State.storeAll, State.setMem]

theorem decodeCommand_frame (s : State) : decodeCommand c s = s.withCommandEffects (decodeCommand c s) := by
  rcases decodeCommand_cases (c := c) s with h | h | ⟨r, -, h⟩ | ⟨-, -, h⟩ <;> rw [h] <;> rfl

theorem appendFinCommand_frame (s : State) :
    appendFinCommand c s = s.withCommandEffects (appendFinCommand c s) := by
  unfold appendFinCommand
  split
  · simp only [sealFrame, setFin, State.finish, State.withCommandEffects, State.storeWord, State.storeAll,
      State.store, State.setMem]
  · rfl

theorem hashCommand_frame (b : Buf) (s : State) :
    hashCommand c b s = s.withCommandEffects (hashCommand c b s) := by
  rcases hashCommand_cases (c := c) b s with h | h <;> rw [h] <;> rfl

theorem exec_command_frame {i : Instr} (hi : isCommand i = true) (h : exec i s = .next t) :
    t = s.withCommandEffects t := by
  rcases exec_command_cases hi h with rfl | rfl | rfl | ⟨b, rfl⟩ | rfl
  · exact encodeCommand_frame s
  · exact decodeCommand_frame s
  · exact appendFinCommand_frame s
  · exact hashCommand_frame b s
  · rfl

/-! ### No command reads `STATUS` (R21): its last effect overwrites the old code -/

theorem encodeCommand_with_status (s : State) (old : Byte) :
    encodeCommand c { s with status := old } = encodeCommand c s := by
  cases h : blockTooLarge c s with
  | true => rw [encodeCommand_tooLarge h, encodeCommand_tooLarge (s := { s with status := old }) h]
  | false => rw [encodeCommand_fits h, encodeCommand_fits (s := { s with status := old }) h]; rfl

theorem decodeCommand_with_status (s : State) (old : Byte) :
    decodeCommand c { s with status := old } = decodeCommand c s := rfl

theorem appendFinCommand_with_status (s : State) (old : Byte) :
    appendFinCommand c { s with status := old } = appendFinCommand c s := rfl

theorem hashCommand_with_status (b : Buf) (s : State) (old : Byte) :
    hashCommand c b { s with status := old } = hashCommand c b s := by cases b <;> rfl

/-! ### What keeps the invariant: the shared operations -/

theorem Inv.finish (h : Inv c s) {r : ResultCode} (hr : resultByte r ∈ blockCodes) : Inv c (s.finish r) :=
  ⟨h.buffers, hr, h.txResults, h.rxResults⟩

theorem Inv.answer (h : Inv c s) (v : Word) : Inv c (s.answer v) :=
  ⟨h.buffers, h.statusCode, h.txResults, h.rxResults⟩

theorem Inv.with_csum (h : Inv c s) (v : Word) : Inv c { s with csum := v } :=
  ⟨h.buffers, h.statusCode, h.txResults, h.rxResults⟩

/-- Taking the next input from the queue touches the model's own fields only. -/
theorem Inv.with_pending_result (h : Inv c s) (rest : List HostInput) (v : Option Word) :
    Inv c { s with pending := rest, result := v } :=
  ⟨h.buffers, h.statusCode, h.txResults, h.rxResults⟩

theorem Inv.afterReset (s : State) : Inv c (s.afterReset c) :=
  ⟨State.wf_afterReset s, List.mem_cons_self, .inl ⟨rfl, rfl⟩, .inl ⟨rfl, rfl, rfl, rfl, rfl⟩⟩

theorem Inv.storeAll (h : Inv c s) (b : Buf) {a : Nat} {vs : List Byte} (ha : a + vs.length ≤ c.bufSize b) :
    Inv c (s.storeAll c b a vs) where
  buffers := State.wf_storeAll b ha h.buffers
  statusCode := by simpa using h.statusCode
  txResults := by simpa [TxResultsCoherent] using h.txResults
  rxResults := by simpa [RxResultsCoherent] using h.rxResults

theorem Inv.store (h : Inv c s) (b : Buf) {a : Nat} (v : Byte) (ha : a < c.bufSize b) :
    Inv c (s.store c b a v) := by
  rw [State.store_eq_storeAll]
  exact h.storeAll b ha

theorem Inv.writeNumber (h : Inv c s) (a : Addr) (v : Word) : Inv c (writeNumber s a v) := by
  rcases writeNumber_cases s a v with e | e | e | e | e | e | e | e | e <;> rw [e] <;>
    exact ⟨h.buffers, h.statusCode, h.txResults, h.rxResults⟩

/-! ### What keeps the invariant: the parts of the commands -/

theorem Inv.putBody (h : Inv c s) : Inv c (putBody c s) := by
  rw [putBody_eq]
  apply h.storeAll .txf
  have hbody := length_bodyBytes (c := c) s
  have hframe := frameLen_le (c := c) s
  rw [bufSize_txf]
  omega

theorem Inv.sealFrame (h : Inv c s) (len : Nat) : Inv c (sealFrame c len s) := by
  refine (h.storeAll .txf ?_).with_csum _
  have := buflen_ge c
  rw [length_be32, bufSize_txf]
  omega

theorem Inv.setFin (h : Inv c s) : Inv c (setFin c s) := by
  apply h.store .txf
  have := buflen_ge c
  rw [bufSize_txf]
  omega

/-- The payload's offset is the header's length, and a frame fits `TXF` (R17, R61). -/
theorem txResultsCoherent_setEncodeResults (s : State) : TxResultsCoherent c (setEncodeResults c s) := by
  refine .inr ⟨?_, ?_⟩
  · rcases hdrLen_cases s.txFlags with e | e | e <;> simp [setEncodeResults, e]
  · have hframe : hdrLen s.txFlags + placedCount c s ≤ c.buflen := frameLen_le s
    show (BitVec.ofNat 32 (hdrLen s.txFlags)).toNat + (BitVec.ofNat 32 (placedCount c s)).toNat ≤ c.buflen
    rw [toNat_ofNat_of_le_buflen (c := c) (by omega), toNat_ofNat_of_le_buflen (c := c) (by omega)]
    exact hframe

theorem Inv.setEncodeResults (h : Inv c s) : Inv c (setEncodeResults c s) :=
  ⟨h.buffers, h.statusCode, txResultsCoherent_setEncodeResults s, h.rxResults⟩

/-- The decoded fields follow the decoded flags, and the payload ends with the received frame (R18, R76, R77). -/
theorem rxResultsCoherent_extractMessage {len : Nat} (hhdr : hdrLen (s.load c .rxf 5) ≤ len)
    (hlen : len ≤ c.buflen) : RxResultsCoherent c (extractMessage c len s) := by
  have hoff : (extractMessage c len s).rxPoff.toNat = hdrLen (s.load c .rxf 5) :=
    toNat_ofNat_of_le_buflen (c := c) (by omega)
  have hplen : (extractMessage c len s).rxPlen.toNat ≤ len - hdrLen (s.load c .rxf 5) := by
    simp only [extractMessage]
    split
    · exact (toNat_ofNat_of_le_buflen (c := c) (by omega)).le
    · exact Nat.zero_le _
  refine .inr ⟨hoff, by omega, ?_, ?_, ?_⟩ <;> intro habsent <;>
    exact if_neg (Bool.not_eq_true _ ▸ habsent)

theorem Inv.extractMessage (h : Inv c s) {len : Nat} (hhdr : hdrLen (s.load c .rxf 5) ≤ len)
    (hlen : len ≤ c.buflen) : Inv c (extractMessage c len s) :=
  ⟨h.buffers, h.statusCode, h.txResults, rxResultsCoherent_extractMessage hhdr hlen⟩

/-! ### What keeps the invariant: commands, instructions, the step -/

theorem Inv.encodeCommand (h : Inv c s) : Inv c (encodeCommand c s) := by
  unfold Machine.encodeCommand
  split
  · exact h.finish (by decide)
  · exact .finish (h.putBody.sealFrame _).setEncodeResults (by decide)

theorem Inv.decodeCommand (h : Inv c s) : Inv c (decodeCommand c s) := by
  have hcodes : ∀ r ∈ [ResultCode.checksum, .version, .short], resultByte r ∈ blockCodes := by decide
  rcases decodeCommand_cases (c := c) s with e | e | ⟨r, hr, e⟩ | ⟨hhdr, hlen, e⟩ <;> rw [e]
  · exact h.finish (by decide)
  · exact h.finish (by decide)
  · exact (h.with_csum _).finish (hcodes r hr)
  · have hsum := h.with_csum (c.hash (s.bytes c .rxf 4 (s.rxLen.toNat - 4)))
    exact (hsum.extractMessage hhdr hlen).finish (r := .ok) (by decide)

theorem Inv.appendFinCommand (h : Inv c s) : Inv c (appendFinCommand c s) := by
  unfold Machine.appendFinCommand
  split
  · exact (h.setFin.sealFrame _).finish (by decide)
  · exact h.finish (by decide)

theorem Inv.hashCommand (h : Inv c s) (b : Buf) : Inv c (hashCommand c b s) := by
  rcases hashCommand_cases (c := c) b s with e | e <;> rw [e]
  · exact h.finish (by decide)
  · exact (h.with_csum _).finish (by decide)

theorem Inv.exec (h : Inv Config.active s) {i : Instr} (he : exec i s = .next t) : Inv Config.active t := by
  cases hi : isCommand i with
  | true =>
    rcases exec_command_cases hi he with rfl | rfl | rfl | ⟨b, rfl⟩ | rfl
    · exact h.encodeCommand
    · exact h.decodeCommand
    · exact h.appendFinCommand
    · exact h.hashCommand b
    · exact h.finish (by decide)
  | false =>
    rcases exec_hostAccess_cases hi he with ⟨a, v, rfl⟩ | ⟨v, rfl⟩ | ⟨b, a, v, ha, rfl⟩
    · exact h.writeNumber a v
    · exact h.answer v
    · exact h.store b v ha

end Sys2Proof.Machine

namespace Sys2Proof.Proofs
open Sys2Proof.Machine

/-- Settles O11: an idle step changes nothing, a reset event establishes the invariant, and an instruction keeps it. -/
theorem stepKeepsInvariant : Obligations.StepKeepsInvariant := by
  intro s t hinv hstep
  rcases step_cases s with ⟨-, e⟩ | ⟨rest, -, e⟩ | ⟨w, rest, i, -, -, e⟩ | ⟨w, rest, r, -, -, e⟩ <;> rw [e] at hstep
  · exact Host.Outcome.next.inj hstep ▸ hinv
  · exact Host.Outcome.next.inj hstep ▸ Inv.afterReset _
  · exact (hinv.with_pending_result rest none).exec hstep
  · cases hstep

/-- Settles O15: `readReg_writeReg`, carried over from registers to their numbers. -/
theorem writeThenReadRegister : Obligations.WriteThenReadRegister := by
  intro a v s ha
  refine ⟨_, exec_wrreg ha v s, fun x => ?_⟩
  simp only [registerView_eq_readNumber]
  have hwords : [0x06#24, 0x07#24, 0x08#24, 0x0B#24, 0x0C#24, 0x12#24, 0x13#24] = wordRegs.map Reg.number := rfl
  rcases addr_eq_number_or_reserved a with ⟨r, rfl⟩ | hres
  · rcases addr_eq_number_or_reserved x with ⟨q, rfl⟩ | hx
    · rw [hwords, show 0x05#24 = Reg.number .txFlags from rfl, writeNumber_number]
      simp only [readNumber_number, readReg_writeReg, setWidth_setWidth_eq_and_low_byte,
        Reg.number_injective.eq_iff, List.mem_map_of_injective Reg.number_injective]
    · rw [if_neg (r.number_ne_of_reserved hx), readNumber_of_reserved hx, readNumber_of_reserved hx]
  · have hne : a ≠ 0x05#24 := Reg.number_ne_of_reserved .txFlags hres
    have hnot : a ∉ wordRegs.map Reg.number := fun hmem => by
      obtain ⟨r, -, e⟩ := List.mem_map.mp hmem
      exact r.number_ne_of_reserved hres e.symm
    rw [writeNumber_of_reserved v hres, hwords, if_neg hne, if_neg hnot]
    split
    · next e => rw [e]
    · rfl

/-- Settles O17: a reserved number names no register, and it is not `CMD`'s. -/
theorem reservedRegisterNumbers : Obligations.ReservedRegisterNumbers := by
  intro a v s hres
  have hcmd : a ≠ 0#24 := Reg.number_ne_of_reserved .cmd hres
  exact ⟨by rw [exec_rdreg, readNumber_of_reserved hres], by rw [exec_wrreg hcmd, writeNumber_of_reserved v hres]⟩

/-- Settles O21, over the three things a host access can do. -/
theorem hostAccessesKeepEngineRegisters : Obligations.HostAccessesKeepEngineRegisters := by
  intro i s t hi he
  rcases exec_hostAccess_cases hi he with ⟨a, v, rfl⟩ | ⟨v, rfl⟩ | ⟨b, a, v, -, rfl⟩
  · rcases writeNumber_cases s a v with e | e | e | e | e | e | e | e | e <;> simp [e]
  · simp
  · simp

/-- Settles O23: what a command answers differs from the state before in `withCommandEffects` only. -/
theorem commandsKeepOperands : Obligations.CommandsKeepOperands := by
  intro i s t hi he
  rw [exec_command_frame hi he]
  simp [State.withCommandEffects]

/-- Settles O9, register by register; a reserved number reads 0 in every state. -/
theorem resetRegisterValues : Obligations.ResetRegisterValues := by
  intro inputs a
  rw [registerView_eq_readNumber]
  rcases addr_eq_number_or_reserved a with ⟨r, rfl⟩ | hres
  · cases r <;> rfl
  · have hversion : a ≠ 0x03#24 := Reg.number_ne_of_reserved .version hres
    have hbuflen : a ≠ 0x04#24 := Reg.number_ne_of_reserved .buflen hres
    rw [readNumber_of_reserved hres, if_neg hversion, if_neg hbuflen]

/-- Settles O16: the register operations hard-wire the two registers, and `BUFLEN` fits its 32 bits. -/
theorem constantRegisters : Obligations.ConstantRegisters := fun s v =>
  ⟨exec_rdreg (Reg.number .version) s,
    ⟨_, toNat_ofNat_of_le_buflen (c := Config.active) le_rfl, exec_rdreg (Reg.number .buflen) s⟩,
    exec_wrreg (a := Reg.number .version) (by decide) v s, exec_wrreg (a := Reg.number .buflen) (by decide) v s⟩

/-- Settles O22, command by command. -/
theorem commandsDoNotReadStatus : Obligations.CommandsDoNotReadStatus := by
  intro i s old hi
  cases i with
  | encode => exact congrArg Host.Outcome.next (encodeCommand_with_status s old)
  | decode => exact congrArg Host.Outcome.next (decodeCommand_with_status s old)
  | appendFin => exact congrArg Host.Outcome.next (appendFinCommand_with_status s old)
  | hashTx => exact congrArg Host.Outcome.next (hashCommand_with_status .txf s old)
  | hashRx => exact congrArg Host.Outcome.next (hashCommand_with_status .rxf s old)
  | cmdRsvd code => rfl
  | wrreg | rdreg | wrbTxf | rdbTxf | wrbRxf | rdbRxf | wrbPwin | rdbPwin => cases hi

end Sys2Proof.Proofs
end

section
/-! The buffers as memory: a canonical buffer is the set of its reads, which bytes an instruction can change, and the
statements of the memory family (spec/20_memory.md). -/

namespace Sys2Proof.Machine

/-! ### The cells of a canonical buffer are its reads (R30) -/

section
variable {bg : Nat → Byte} {size : Nat} {m : Memory}

theorem Memory.read_of_mem (hsorted : m.Pairwise (fun x y => x.1 < y.1)) {cell : Host.Cell} (hmem : cell ∈ m) :
    Memory.read bg m cell.1 = cell.2 := by
  induction m with
  | nil => cases hmem
  | cons first rest ih =>
    obtain ⟨hbelow, hrest⟩ := List.pairwise_cons.mp hsorted
    rcases List.mem_cons.mp hmem with rfl | hmem
    · exact if_pos rfl
    · rw [Memory.read_cons, if_neg (hbelow cell hmem).ne, ih hrest hmem]

/-- The cells of a buffer in canonical form are the bytes that read otherwise than the background. -/
theorem Memory.mem_iff_read (h : Memory.wf bg size m) {cell : Host.Cell} :
    cell ∈ m ↔ Memory.read bg m cell.1 = cell.2 ∧ cell.2 ≠ bg cell.1 := by
  obtain ⟨hsorted, hcells⟩ := h
  constructor
  · exact fun hmem => ⟨Memory.read_of_mem hsorted hmem, (hcells cell hmem).2⟩
  · rintro ⟨hread, hne⟩
    obtain ⟨own, hmem, hown⟩ : ∃ own ∈ m, own.1 = cell.1 := by
      by_contra hnone
      exact hne (hread ▸ Memory.read_of_absent fun own hmem hown => hnone ⟨own, hmem, hown⟩)
    have hbyte : own.2 = cell.2 := by rw [← Memory.read_of_mem hsorted hmem, hown, hread]
    exact Prod.ext hown hbyte ▸ hmem

end

/-! ### Which bytes an operation leaves -/

section
variable {c : Config} {s t : State} {b : Buf} {x : Nat}

/-- A byte read is a function of the buffer's cells and the draw. -/
theorem State.load_congr_mem (hmem : t.mem b = s.mem b) (hdraw : t.draw = s.draw) :
    t.load c b x = s.load c b x := by
  unfold State.load State.unwritten
  rw [hmem, hdraw]

theorem load_writeNumber (a : Addr) (v : Word) : (writeNumber s a v).load c b x = s.load c b x := by
  rcases writeNumber_cases s a v with e | e | e | e | e | e | e | e | e <;> rw [e] <;>
    exact State.load_congr_mem (by cases b <;> rfl) rfl

theorem load_decodeCommand : (decodeCommand c s).load c b x = s.load c b x := by
  rcases decodeCommand_cases (c := c) s with e | e | ⟨r, -, e⟩ | ⟨-, -, e⟩ <;> rw [e] <;>
    exact State.load_congr_mem (by cases b <;> rfl) rfl

theorem load_hashCommand (b' : Buf) : (hashCommand c b' s).load c b x = s.load c b x := by
  rcases hashCommand_cases (c := c) b' s with e | e <;> rw [e] <;>
    exact State.load_congr_mem (by cases b <;> rfl) rfl

/-- No command writes `RXF` or `PWIN` (R31). -/
theorem State.load_withCommandEffects (hb : b ≠ .txf) : (s.withCommandEffects t).load c b x = s.load c b x := by
  refine State.load_congr_mem ?_ rfl
  cases b with
  | txf => exact absurd rfl hb
  | rxf | pwin => rfl

/-! ### Where a byte changed -/

/-- ENCODE changes bytes of its frame only, and only past the size gate (R60, R62, R64). -/
theorem encodeCommand_changes_byte (h : (encodeCommand c s).load c b x ≠ s.load c b x) :
    b = .txf ∧ (encodeCommand c s).status = 0#8 ∧ x < (encodeCommand c s).txLen.toNat := by
  have hb : b = .txf := by
    by_contra hb
    exact h (encodeCommand_frame s ▸ State.load_withCommandEffects hb)
  subst hb
  cases hgate : blockTooLarge c s with
  | true => exact absurd (by rw [encodeCommand_tooLarge hgate]; rfl) h
  | false =>
    rw [load_encodeCommand hgate] at h
    have hx : x < frameLen c s := by
      by_contra hx
      exact h (if_neg hx)
    rw [encodeCommand_fits hgate]
    refine ⟨rfl, rfl, ?_⟩
    show x < (BitVec.ofNat 32 (frameLen c s)).toNat
    rwa [toNat_ofNat_of_le_buflen (frameLen_le s)]

/-- APPEND_FIN changes the checksum field and the flags byte only, and only for a legal used length (R80, R81). -/
theorem appendFinCommand_changes_byte (h : (appendFinCommand c s).load c b x ≠ s.load c b x) :
    b = .txf ∧ (appendFinCommand c s).status = 0#8 ∧ (x < 4 ∨ x = 5) := by
  have hb : b = .txf := by
    by_contra hb
    exact h (appendFinCommand_frame s ▸ State.load_withCommandEffects hb)
  subst hb
  by_cases hlegal : 6 ≤ s.txLen.toNat ∧ s.txLen.toNat ≤ c.buflen
  · obtain ⟨hge, hle⟩ := hlegal
    rw [load_appendFinCommand hge hle] at h
    refine ⟨rfl, by rw [appendFinCommand_legal hge hle]; rfl, ?_⟩
    by_contra hx
    obtain ⟨hsum, hflags⟩ := not_or.mp hx
    exact h (by rw [if_neg hsum, if_neg hflags])
  · rw [appendFinCommand_illegal (by omega)] at h
    exact absurd (State.load_finish ..) h

theorem hostStore_changes_byte {b' : Buf} {a : Addr} {v : Byte} (hnext : hostStore c b' a v s = .next t)
    (h : t.load c b x ≠ s.load c b x) : b = b' ∧ a.toNat = x := by
  obtain ⟨-, rfl⟩ := hostStore_next hnext
  rw [State.load_store] at h
  by_contra hother
  exact h (if_neg fun hsame => hother ⟨hsame.1, hsame.2.symm⟩)

theorem hostLoad_keeps_bytes {b' : Buf} {a : Addr} (hnext : hostLoad c b' a s = .next t) :
    t.load c b x = s.load c b x := by
  obtain ⟨v, rfl⟩ := hostLoad_next hnext
  exact State.load_answer s v b x

/-- A byte that an instruction changes: the host's write of it, ENCODE inside the frame, or APPEND_FIN in the checksum
and flags bytes (R31). -/
theorem exec_changes_byte {i : Instr} (hnext : exec i s = .next t)
    (h : t.load Config.active b x ≠ s.load Config.active b x) :
    (∃ a v, i = writeByteOf b a v ∧ a.toNat = x) ∨
      (b = .txf ∧ i = .encode ∧ t.status = 0#8 ∧ x < t.txLen.toNat) ∨
      (b = .txf ∧ i = .appendFin ∧ t.status = 0#8 ∧ (x < 4 ∨ x = 5)) := by
  cases i with
  | encode =>
    obtain rfl := Host.Outcome.next.inj hnext
    obtain ⟨hb, hok, hx⟩ := encodeCommand_changes_byte h
    exact .inr (.inl ⟨hb, rfl, hok, hx⟩)
  | appendFin =>
    obtain rfl := Host.Outcome.next.inj hnext
    obtain ⟨hb, hok, hx⟩ := appendFinCommand_changes_byte h
    exact .inr (.inr ⟨hb, rfl, hok, hx⟩)
  | wrbTxf a v | wrbRxf a v | wrbPwin a v =>
    obtain ⟨rfl, hx⟩ := hostStore_changes_byte hnext h
    exact .inl ⟨a, v, rfl, hx⟩
  | decode =>
    obtain rfl := Host.Outcome.next.inj hnext
    exact absurd load_decodeCommand h
  | hashTx | hashRx =>
    obtain rfl := Host.Outcome.next.inj hnext
    exact absurd (load_hashCommand _) h
  | cmdRsvd code =>
    obtain rfl := execCmdRsvd_next hnext
    exact absurd (State.load_finish ..) h
  | wrreg a v =>
    have ha : a ≠ 0#24 := by rintro rfl; cases hnext
    rw [exec_wrreg ha] at hnext
    obtain rfl := Host.Outcome.next.inj hnext
    exact absurd (load_writeNumber a v) h
  | rdreg a =>
    obtain rfl := Host.Outcome.next.inj hnext
    exact absurd (State.load_answer ..) h
  | rdbTxf a | rdbRxf a | rdbPwin a => exact absurd (hostLoad_keeps_bytes hnext) h

end

end Sys2Proof.Machine

namespace Sys2Proof.Proofs
open Sys2Proof.Machine

/-- Settles O12: equal reads give the same cells (`Memory.mem_iff_read`), and rising offsets fix their order. -/
theorem equalReadsAreEqualData : Obligations.EqualReadsAreEqualData := by
  intro bg size m m' hwf hwf' hreads
  have : Std.Irrefl (fun x y : Host.Cell => x.1 < y.1) := ⟨fun x => Nat.lt_irrefl x.1⟩
  have hcells : ∀ cell, cell ∈ m ↔ cell ∈ m' := fun cell => by
    rw [Memory.mem_iff_read hwf, Memory.mem_iff_read hwf', hreads]
  exact hwf.1.eq_of_mem_iff hwf'.1 hcells

/-- Settles O26, over what a step can be; taking an input from the queue leaves every byte. -/
theorem onlyTheseInputsChangeAByte : Obligations.OnlyTheseInputsChangeAByte := by
  intro s t b x hstep hchanged
  rcases step_cases s with ⟨-, e⟩ | ⟨rest, hpending, -⟩ | ⟨w, rest, i, hpending, hdecode, e⟩ | ⟨w, rest, r, -, -, e⟩
  · exact absurd (by rw [Host.Outcome.next.inj (e.symm.trans hstep)]) hchanged
  · exact ⟨.reset, rest, hpending, .inl rfl⟩
  · have htaken : { s with pending := rest, result := none }.load Config.active b x = s.load Config.active b x :=
      State.load_congr_mem (by cases b <;> rfl) rfl
    exact ⟨.transaction w, rest, hpending,
      .inr ⟨w, i, rfl, hdecode, exec_changes_byte (e ▸ hstep) (htaken ▸ hchanged)⟩⟩
  · exact absurd (e.symm.trans hstep) nofun

end Sys2Proof.Proofs
end

section
/-! The transaction word (spec/30_encoding.md R52 to R56), the layout of a frame (R43, R44, R51) and the pseudo-instructions
(R58): what the decoder reads of each kind of word, and the statements of the encoding family. -/

namespace Sys2Proof
open Machine

variable {c : Config} {w : TWord} {i : Instr}

/-! ### The buffer accesses, one for all three buffers -/

theorem Buf.space_ne_zero (b : Buf) : b.space ≠ 0#4 := by cases b <;> decide

theorem encode_writeByteOf (b : Buf) (a : Addr) (v : Byte) :
    encode (writeByteOf b a v) = packWord 1#4 b.space a (v.setWidth 32) := by cases b <;> rfl

theorem encode_readByteOf (b : Buf) (a : Addr) : encode (readByteOf b a) = packWord 2#4 b.space a 0#32 := by
  cases b <;> rfl

theorem writeByteOf_wellFormed_iff (b : Buf) (a : Addr) (v : Byte) :
    (writeByteOf b a v).WellFormed c ↔ a.toNat < c.bufSize b := by cases b <;> exact inBuffer_eq_true c _ a

theorem readByteOf_wellFormed_iff (b : Buf) (a : Addr) :
    (readByteOf b a).WellFormed c ↔ a.toNat < c.bufSize b := by cases b <;> exact inBuffer_eq_true c _ a

/-! ### What the decoder reads of each kind of word -/

/-- A write to `CMD` (R53, R54). -/
theorem decode_packWord_command (code : Word) : decode c (packWord 1#4 0#4 0#24 code) = .ok (commandOf code) := by
  simp [decode, decodeWrite]

theorem decode_packWord_wrreg {a : Addr} (ha : a ≠ 0#24) (d : Word) :
    decode c (packWord 1#4 0#4 a d) = .ok (.wrreg a d) := by
  simp [decode, decodeWrite, ha]

theorem decode_packWord_rdreg (a : Addr) : decode c (packWord 2#4 0#4 a 0#32) = .ok (.rdreg a) := by
  simp [decode, decodeRead]

theorem decode_packWord_writeByte {b : Buf} {a : Addr} (ha : a.toNat < c.bufSize b) (v : Byte) :
    decode c (packWord 1#4 b.space a (v.setWidth 32)) = .ok (writeByteOf b a v) := by
  simp [decode, decodeWrite, b.space_ne_zero, ha]

theorem decode_packWord_readByte {b : Buf} {a : Addr} (ha : a.toNat < c.bufSize b) :
    decode c (packWord 2#4 b.space a 0#32) = .ok (readByteOf b a) := by
  simp [decode, decodeRead, b.space_ne_zero, ha]

/-- The decoder reads the encoding of a well-formed instruction back, row by row of the opcode table. -/
theorem decode_encode (hi : i.WellFormed c) : decode c (encode i) = .ok i := by
  cases i with
  | encode | decode | appendFin | hashTx | hashRx => exact decode_packWord_command _
  | cmdRsvd code => rw [← commandOf_reserved hi]; exact encode_commandOf code ▸ decode_packWord_command code
  | wrreg a d => exact decode_packWord_wrreg (bne_iff_ne.mp hi) d
  | rdreg a => exact decode_packWord_rdreg a
  | wrbTxf a v => exact decode_packWord_writeByte (b := .txf) ((inBuffer_eq_true ..).mp hi) v
  | rdbTxf a => exact decode_packWord_readByte (b := .txf) ((inBuffer_eq_true ..).mp hi)
  | wrbRxf a v => exact decode_packWord_writeByte (b := .rxf) ((inBuffer_eq_true ..).mp hi) v
  | rdbRxf a => exact decode_packWord_readByte (b := .rxf) ((inBuffer_eq_true ..).mp hi)
  | wrbPwin a v => exact decode_packWord_writeByte (b := .pwin) ((inBuffer_eq_true ..).mp hi) v
  | rdbPwin a => exact decode_packWord_readByte (b := .pwin) ((inBuffer_eq_true ..).mp hi)

/-- What the words that decode are, and the instructions they stand for (R52 to R56): a write to `CMD` or another
register, a read of a register, or a byte access inside a buffer. -/
inductive WordOf (c : Config) : TWord → Instr → Prop where
  | command (code : Word) : WordOf c (packWord 1#4 0#4 0#24 code) (commandOf code)
  | wrreg {a : Addr} (d : Word) (ha : a ≠ 0#24) : WordOf c (packWord 1#4 0#4 a d) (.wrreg a d)
  | rdreg (a : Addr) : WordOf c (packWord 2#4 0#4 a 0#32) (.rdreg a)
  | writeByte {b : Buf} {a : Addr} (v : Byte) (ha : a.toNat < c.bufSize b) :
      WordOf c (packWord 1#4 b.space a (v.setWidth 32)) (writeByteOf b a v)
  | readByte {b : Buf} {a : Addr} (ha : a.toNat < c.bufSize b) :
      WordOf c (packWord 2#4 b.space a 0#32) (readByteOf b a)

theorem wordOf_of_decodeWrite (hkind : w.kind = 1#4) (h : decodeWrite c w = .ok i) : WordOf c w i := by
  have hw := packWord_fields w
  unfold decodeWrite at h
  split at h
  · next hspace =>
    rw [hkind, hspace] at hw
    split at h <;> cases h
    · next haddr =>
      rw [haddr] at hw
      simpa only [hw] using WordOf.command (c := c) w.data
    · next haddr => simpa only [hw] using WordOf.wrreg (c := c) w.data haddr
  · split at h
    · cases h
    · next b hbuf =>
      split_ifs at h with hupper hin
      cases h
      rw [hkind, bufOfSpace_eq_some hbuf, ← TWord.data_of_upper (not_not.mp hupper)] at hw
      simpa only [hw] using WordOf.writeByte (c := c) w.dataByte ((inBuffer_eq_true ..).mp hin)

theorem wordOf_of_decodeRead (hkind : w.kind = 2#4) (h : decodeRead c w = .ok i) : WordOf c w i := by
  have hw := packWord_fields w
  unfold decodeRead at h
  split at h
  · next hspace =>
    split_ifs at h with hdata
    cases h
    rw [hkind, hspace, not_not.mp hdata] at hw
    simpa only [hw] using WordOf.rdreg (c := c) w.addr
  · split at h
    · cases h
    · next b hbuf =>
      split_ifs at h with hdata hin
      cases h
      rw [hkind, bufOfSpace_eq_some hbuf, not_not.mp hdata] at hw
      simpa only [hw] using WordOf.readByte (c := c) ((inBuffer_eq_true ..).mp hin)

/-- The decoder accepts exactly the words of `WordOf`, each as the instruction it stands for there. -/
theorem decode_eq_ok_iff : decode c w = .ok i ↔ WordOf c w i := by
  constructor
  · intro h
    unfold decode at h
    split_ifs at h with hwrite hread
    · exact wordOf_of_decodeWrite hwrite h
    · exact wordOf_of_decodeRead hread h
  · rintro (code | ⟨d, ha⟩ | a | ⟨v, ha⟩ | ha)
    · exact decode_packWord_command code
    · exact decode_packWord_wrreg ha d
    · exact decode_packWord_rdreg a
    · exact decode_packWord_writeByte ha v
    · exact decode_packWord_readByte ha

theorem WordOf.wellFormed (h : WordOf c w i) : i.WellFormed c := by
  cases h with
  | command code => exact commandOf_wellFormed c code
  | wrreg d ha => exact bne_iff_ne.mpr ha
  | rdreg a => rfl
  | writeByte v ha => exact (writeByteOf_wellFormed_iff ..).mpr ha
  | readByte ha => exact (readByteOf_wellFormed_iff ..).mpr ha

theorem WordOf.encode_eq (h : WordOf c w i) : encode i = w := by
  cases h with
  | command code => exact encode_commandOf code
  | wrreg | rdreg => rfl
  | writeByte v ha => exact encode_writeByteOf _ _ v
  | readByte ha => exact encode_readByteOf _ _

/-! ### Reserved words (R55) -/

theorem reserved_space_of_no_buffer {space : BitVec 4} (hregs : space ≠ 0#4) (h : bufOfSpace space = none) :
    3 < space.toNat := by
  revert space; decide

theorem reservedWord_of_outside_buffer {b : Buf} (hspace : w.space = b.space)
    (haddr : Config.active.bufSize b ≤ w.addr.toNat) : Claims.ReservedWord w := by
  cases b with
  | txf => exact .inr (.inr (.inl ⟨.inl hspace, haddr⟩))
  | rxf => exact .inr (.inr (.inl ⟨.inr hspace, haddr⟩))
  | pwin => exact .inr (.inr (.inr (.inl ⟨hspace, haddr⟩)))

theorem reservedWord_of_decodeWrite_error {e : DecodeError} (hkind : w.kind = 1#4)
    (h : decodeWrite Config.active w = .error e) : Claims.ReservedWord w := by
  unfold decodeWrite at h
  split at h
  · split at h <;> cases h
  · next hspace =>
    split at h
    · next hbuf => exact .inr (.inl (reserved_space_of_no_buffer hspace hbuf))
    · next b hbuf =>
      split_ifs at h with hupper hin
      · exact .inr (.inr (.inr (.inr (.inl ⟨hkind, hspace, hupper⟩))))
      · exact reservedWord_of_outside_buffer (bufOfSpace_eq_some hbuf)
          ((inBuffer_eq_false ..).mp (Bool.eq_false_iff.mpr hin))

theorem reservedWord_of_decodeRead_error {e : DecodeError} (hkind : w.kind = 2#4)
    (h : decodeRead Config.active w = .error e) : Claims.ReservedWord w := by
  by_cases hdata : w.data = 0#32
  · simp only [decodeRead, hdata, ne_eq, not_true_eq_false, if_false] at h
    split at h
    · cases h
    · next hspace =>
      split at h
      · next hbuf => exact .inr (.inl (reserved_space_of_no_buffer hspace hbuf))
      · next b hbuf =>
        split_ifs at h with hin
        exact reservedWord_of_outside_buffer (bufOfSpace_eq_some hbuf)
          ((inBuffer_eq_false ..).mp (Bool.eq_false_iff.mpr hin))
  · exact .inr (.inr (.inr (.inr (.inr ⟨hkind, hdata⟩))))

/-- A word the decoder rejects has one of the forms R55 reserves. -/
theorem reservedWord_of_decode_error {e : DecodeError} (h : decode Config.active w = .error e) :
    Claims.ReservedWord w := by
  unfold decode at h
  split_ifs at h with hwrite hread
  · exact reservedWord_of_decodeWrite_error hwrite h
  · exact reservedWord_of_decodeRead_error hread h
  · exact .inl ⟨hwrite, hread⟩

/-- No word that decodes has a form R55 reserves. -/
theorem WordOf.not_reservedWord (h : WordOf Config.active w i) : ¬ Claims.ReservedWord w := by
  unfold Claims.ReservedWord
  cases h with
  | command | wrreg | rdreg => simp
  | @writeByte b a v ha | @readByte b a ha =>
    have hinside := Nat.not_le.mpr ha
    cases b <;> simpa [Buf.space] using hinside

end Sys2Proof

namespace Sys2Proof.Machine

/-! ### The flags as bits (R43, R46) -/

/-- A flag is the bit of the flags byte that its mask selects. -/
theorem flagSet_eq_getLsbD {m : Flag} {k : Nat} (hmask : flagMask m = BitVec.twoPow 8 k) (hk : k < 8) (f : Byte) :
    flagSet f m = f.getLsbD k := by
  have hne : BitVec.twoPow 8 k ≠ 0#8 := fun h => by
    simpa [hk] using congrArg (BitVec.getLsbD · k) h
  unfold flagSet
  rw [hmask, BitVec.and_twoPow]
  cases f.getLsbD k <;> simp [hne]

theorem flagSet_ack (f : Byte) : flagSet f .ack = f.getLsbD 1 := flagSet_eq_getLsbD (by decide) (by decide) f

theorem flagSet_dat (f : Byte) : flagSet f .dat = f.getLsbD 4 := flagSet_eq_getLsbD (by decide) (by decide) f

theorem flagSet_blk (f : Byte) : flagSet f .blk = f.getLsbD 5 := flagSet_eq_getLsbD (by decide) (by decide) f

/-! ### Received bytes as a frame (R51) -/

section
variable {c : Config} {s : State} {b : Buf} {n : Nat}

theorem byteAt_bytes {k : Nat} (hk : k < n) : byteAt (s.bytes c b 0 n) k = s.load c b k := by
  rw [byteAt, State.getD_bytes s b hk, Nat.zero_add]

theorem wordAt_bytes {k : Nat} (hk : k + 4 ≤ n) : wordAt (s.bytes c b 0 n) k = s.loadWord c b k := by
  unfold wordAt State.loadWord
  rw [byteAt_bytes (by omega), byteAt_bytes (by omega), byteAt_bytes (by omega), byteAt_bytes (by omega)]

/-- When the first bytes of a buffer are a valid frame, said of the buffer's loads. -/
theorem validFrame_bytes_iff :
    ValidFrame c (s.bytes c b 0 n) ↔
      6 ≤ n ∧ n ≤ c.buflen ∧ s.loadWord c b 0 = c.hash (s.bytes c b 4 (n - 4)) ∧
        s.load c b 4 = c.version ∧ hdrLen (s.load c b 5) ≤ n := by
  unfold ValidFrame
  rw [State.length_bytes]
  refine and_congr_right fun hlen => ?_
  rw [wordAt_bytes (by omega), byteAt_bytes (by omega), byteAt_bytes (by omega), State.drop_bytes s b (by omega),
    Nat.zero_add]

/-- The checks after the length checks end with code 0 when all three pass (R73 to R76). -/
theorem checkFrame_status_ok_iff :
    (checkFrame c n s).status = 0#8 ↔
      s.csum = s.loadWord c .rxf 0 ∧ s.load c .rxf 4 = c.version ∧ hdrLen (s.load c .rxf 5) ≤ n := by
  unfold checkFrame
  split_ifs with hsum hversion hheader
  · exact iff_of_false (by decide : resultByte .checksum ≠ 0#8) fun h => hsum h.1
  · exact iff_of_false (by decide : resultByte .version ≠ 0#8) fun h => hversion h.2.1
  · exact iff_of_false (by decide : resultByte .short ≠ 0#8) fun h => Nat.not_le.mpr hheader h.2.2
  · exact iff_of_true rfl ⟨not_not.mp hsum, not_not.mp hversion, Nat.le_of_not_lt hheader⟩

/-- DECODE ends with code 0 when every check passes (R70 to R76). -/
theorem decodeCommand_status_ok_iff :
    (decodeCommand c s).status = 0#8 ↔
      s.rxLen.toNat ≤ c.buflen ∧ 6 ≤ s.rxLen.toNat ∧
        s.loadWord c .rxf 0 = c.hash (s.bytes c .rxf 4 (s.rxLen.toNat - 4)) ∧
        s.load c .rxf 4 = c.version ∧ hdrLen (s.load c .rxf 5) ≤ s.rxLen.toNat := by
  by_cases hlen : s.rxLen.toNat ≤ c.buflen ∧ 6 ≤ s.rxLen.toNat
  · obtain ⟨hle, hge⟩ := hlen
    rw [decodeCommand_checked hle hge, checkFrame_status_ok_iff]
    simp only [hle, hge, true_and]
    exact and_congr_left' eq_comm
  · refine iff_of_false (fun hok => ?_) (fun h => hlen ⟨h.1, h.2.1⟩)
    unfold decodeCommand at hok
    split_ifs at hok with hlong hshort
    · exact absurd hok (by decide : resultByte .unknown ≠ 0#8)
    · exact absurd hok (by decide : resultByte .short ≠ 0#8)
    · exact hlen ⟨Nat.le_of_not_lt hlong, Nat.le_of_not_lt hshort⟩

end

/-! ### The transactions of the pseudo-instructions (R58) -/

section
variable {c : Config} {i : Instr}

theorem writeTo_wellFormed {r : Reg} (hr : r ≠ .cmd) (v : Word) : (writeTo r v).WellFormed c :=
  bne_iff_ne.mpr (Reg.number_injective.ne hr)

theorem toNat_addr_lt_bufSize {b : Buf} {o : Nat} (ho : o < c.bufSize b) :
    (BitVec.ofNat 24 o).toNat < c.bufSize b :=
  Nat.lt_of_le_of_lt (BitVec.toNat_ofNat .. ▸ Nat.mod_le _ _) ho

/-- Byte writes that end inside the buffer are well-formed. -/
theorem storeBytes_wellFormed {b : Buf} {o : Nat} {bytes : List Byte} (hfit : o + bytes.length ≤ c.bufSize b)
    (hi : i ∈ storeBytes b o bytes) : i.WellFormed c := by
  induction bytes generalizing o with
  | nil => cases hi
  | cons v rest ih =>
    rw [List.length_cons] at hfit
    rcases List.mem_cons.mp hi with rfl | hrest
    · exact (writeByteOf_wellFormed_iff ..).mpr (toNat_addr_lt_bufSize (by omega))
    · exact ih (by omega) hrest

theorem copyBack_wellFormed {o : Nat} {bytes : List Byte} (hfit : o + bytes.length ≤ c.buflen)
    (hi : i ∈ copyBack o bytes) : i.WellFormed c := by
  induction bytes generalizing o with
  | nil => cases hi
  | cons v rest ih =>
    rw [List.length_cons] at hfit
    have hload := (readByteOf_wellFormed_iff (c := c) .txf (BitVec.ofNat 24 o)).mpr
      (toNat_addr_lt_bufSize (b := .txf) (show o < c.buflen by omega))
    have hstore := (writeByteOf_wellFormed_iff (c := c) .rxf (BitVec.ofNat 24 o) v).mpr
      (toNat_addr_lt_bufSize (b := .rxf) (show o < c.buflen by omega))
    rcases List.mem_cons.mp hi with rfl | hi
    · exact hload
    · rcases List.mem_cons.mp hi with rfl | hrest
      · exact hstore
      · exact ih (by omega) hrest

theorem setMsg_wellFormed {f : Byte} {seq ack : Word} (hi : i ∈ setMsg f seq ack) : i.WellFormed c := by
  simp only [setMsg, List.mem_cons, List.not_mem_nil, or_false] at hi
  rcases hi with rfl | rfl | rfl <;> exact writeTo_wellFormed (by decide) _

/-- `LOADPAY` fills no more than the payload window, whatever length it offers. -/
theorem loadPayOffering_wellFormed {payload : List Byte} {offered : Word}
    (hi : i ∈ loadPayOffering c payload offered) : i.WellFormed c := by
  rcases List.mem_append.mp hi with hstore | hwrite
  · exact storeBytes_wellFormed (b := .pwin)
      ((Nat.zero_add _).trans_le (List.length_take_le c.pwinSize payload)) hstore
  · rw [List.mem_singleton.mp hwrite]
    exact writeTo_wellFormed (by decide) _

theorem loadRx_wellFormed {datagram : List Byte} (hfit : datagram.length ≤ c.buflen) (hi : i ∈ loadRx datagram) :
    i.WellFormed c := by
  rcases List.mem_append.mp hi with hstore | hwrite
  · exact storeBytes_wellFormed (b := .rxf) ((Nat.zero_add _).trans_le hfit) hstore
  · rw [List.mem_singleton.mp hwrite]
    exact writeTo_wellFormed (by decide) _

theorem loopBack_wellFormed {s : State} (hfit : s.txLen.toNat ≤ c.buflen) (hi : i ∈ loopBack c s) :
    i.WellFormed c := by
  rcases List.mem_append.mp hi with hread | hwrite
  · rcases List.mem_cons.mp hread with rfl | hcopy
    · rfl
    · exact copyBack_wellFormed (by rwa [State.length_bytes, Nat.zero_add]) hcopy
  · rw [List.mem_singleton.mp hwrite]
    exact writeTo_wellFormed (by decide) _

theorem sendFrame_wellFormed {s : State} (hfit : s.txLen.toNat ≤ c.buflen) (hi : i ∈ sendFrame s) :
    i.WellFormed c := by
  rcases List.mem_cons.mp hi with rfl | hload
  · rfl
  · obtain ⟨o, ho, rfl⟩ := List.mem_map.mp hload
    exact (readByteOf_wellFormed_iff .txf _).mpr
      (toNat_addr_lt_bufSize (b := .txf) ((List.mem_range.mp ho).trans_le hfit))

end

/-! ### A well-formed instruction is never refused (R130) -/

theorem exec_answers_of_wellFormed {i : Instr} (hi : i.WellFormed Config.active) (s : State) : Answers (exec i s) := by
  cases i with
  | encode | decode | appendFin | hashTx | hashRx | rdreg => exact ⟨_, rfl⟩
  | cmdRsvd code => exact ⟨_, if_pos hi⟩
  | wrreg a v => exact ⟨_, exec_wrreg (bne_iff_ne.mp hi) v s⟩
  | wrbTxf | rdbTxf | wrbRxf | rdbRxf | wrbPwin | rdbPwin => exact ⟨_, if_pos hi⟩

theorem not_refuses_of_answers {o : Host.Outcome State Fault Refusal} (h : Answers o) : ¬ Refuses o := by
  obtain ⟨t, rfl⟩ := h
  exact nofun

end Sys2Proof.Machine

namespace Sys2Proof.Proofs
open Sys2Proof.Machine

/-- Settles O1, as `decode_encode` at the configuration of the machine. -/
theorem decodeEncodeRoundTrip : Obligations.DecodeEncodeRoundTrip := fun _ hi => decode_encode hi

/-- Settles O2, over the five kinds of word that decode. -/
theorem encodeDecodeRoundTrip : Obligations.EncodeDecodeRoundTrip := fun _ _ hdecode =>
  have hword := decode_eq_ok_iff.mp hdecode
  ⟨hword.wellFormed, hword.encode_eq⟩

/-- Settles O4, over what a step can be: a decoded instruction is well-formed and so never refused, and the words that do
not decode are the reserved ones. -/
theorem stepRefusesExactlyReservedWords : Obligations.StepRefusesExactlyReservedWords := by
  intro s
  rcases step_cases s with ⟨hpending, e⟩ | ⟨rest, hpending, e⟩ | ⟨w, rest, i, hpending, hdecode, e⟩ |
    ⟨w, rest, r, hpending, hdecode, e⟩ <;> rw [hpending, e]
  · exact iff_of_false (not_refuses_of_answers ⟨_, rfl⟩) nofun
  · exact iff_of_false (not_refuses_of_answers ⟨_, rfl⟩) nofun
  · have hword := decode_eq_ok_iff.mp hdecode
    refine iff_of_false (not_refuses_of_answers (exec_answers_of_wellFormed hword.wellFormed _)) ?_
    rintro ⟨w', rest', hfront, hreserved⟩
    cases hfront
    exact hword.not_reservedWord hreserved
  · exact iff_of_true ⟨_, rfl⟩ ⟨w, rest, rfl, reservedWord_of_decode_error hdecode⟩

/-- Settles O25: the codes but 1 to 5 are the reserved ones, and `E_UNKNOWN` is code 13. -/
theorem reservedCommandResult : Obligations.ReservedCommandResult := by
  intro code s hcode
  have hreserved : isReservedCode code = true := (isReservedCode_eq_true code).mpr (by simpa using hcode)
  exact ⟨commandOf_reserved hreserved ▸ decode_packWord_command code, if_pos hreserved⟩

/-- Settles O44: DECODE's checks are the conditions on a valid frame, said of the bytes received. -/
theorem decodeSucceedsExactlyOnValidFrames : Obligations.DecodeSucceedsExactlyOnValidFrames := by
  intro s
  have hanswer : (∃ t, exec .decode s = .next t ∧ t.status = 0#8) ↔ (decodeCommand Config.active s).status = 0#8 := by
    constructor
    · rintro ⟨t, hnext, hok⟩
      exact Host.Outcome.next.inj hnext ▸ hok
    · exact fun hok => ⟨_, rfl, hok⟩
  rw [hanswer, decodeCommand_status_ok_iff, Claims.received, validFrame_bytes_iff]
  tauto

/-- Settles O54, one expansion after the other. -/
theorem pseudoInstructionsWellFormed : Obligations.PseudoInstructionsWellFormed :=
  ⟨fun _ _ _ _ => setMsg_wellFormed, fun _ _ => loadPayOffering_wellFormed, fun _ hfit _ => loadRx_wellFormed hfit,
    fun _ hfit => ⟨fun _ => loopBack_wellFormed hfit, fun _ => sendFrame_wellFormed hfit⟩⟩

/-- Settles O3; twelve of the fourteen words are those of the model's own row tests. -/
theorem specWordsDecode : Obligations.SpecWordsDecode :=
  ⟨decode_row_encode, decode_row_decode, decode_row_appendFin, decode_row_hashTx, decode_row_hashRx,
    decode_row_cmdRsvd, decode_row_wrreg, decode_encode (i := .rdreg 0xFFFFFF#24) rfl, decode_row_wrbTxf,
    decode_row_rdbTxf, decode_row_wrbRxf, decode_row_rdbRxf, decode_encode (i := .wrbPwin 7#24 0x47#8) rfl,
    decode_row_rdbPwin⟩

/-- Settles O27, over the values of the three bits DAT, BLK and ACK. -/
theorem headerShapes : Obligations.HeaderShapes := by
  refine ⟨rfl, fun f => ?_⟩
  simp only [hdrLen, ackOff, hasSeq, hasAck, hasPay, flagSet_dat, flagSet_blk, flagSet_ack]
  generalize f.getLsbD 4 = dat, f.getLsbD 5 = blk, f.getLsbD 1 = ack
  revert dat blk ack
  decide

end Sys2Proof.Proofs
end

section
/-! ENCODE (spec/40_encode.md): the fields of a frame as bytes, what ENCODE leaves in `TXF` and the registers, what
DECODE makes of a received frame, and the statements of the encode family. -/

namespace Sys2Proof.Machine

/-! ### The fields of a frame (R43, R60, R68) -/

theorem byteAt_append_right (front back : List Byte) (k : Nat) :
    byteAt (front ++ back) (front.length + k) = byteAt back k := by
  unfold byteAt
  rw [List.getD_append_right _ _ _ _ (Nat.le_add_right ..), Nat.add_sub_cancel_left]

/-- A big-endian field is read back where it was put (R33). -/
theorem wordAt_append_be32 {front back : List Byte} {v : Word} {k : Nat} (hk : front.length = k) :
    wordAt (front ++ (be32 v ++ back)) k = v := by
  have hbyte := byteAt_append_right front (be32 v ++ back)
  subst hk
  unfold wordAt
  rw [hbyte 1, hbyte 2, hbyte 3, show byteAt _ front.length = _ from hbyte 0]
  exact ofBe32_be32 v

theorem seqOff_add_le_hdrLen {f : Byte} (hseq : hasSeq f = true) : seqOff + 4 ≤ hdrLen f := by
  unfold seqOff hdrLen
  rw [if_pos hseq]
  exact Nat.le_add_right ..

theorem ackOff_add_le_hdrLen {f : Byte} (hack : hasAck f = true) : ackOff f + 4 ≤ hdrLen f := by
  unfold ackOff hdrLen
  rw [if_pos hack]
  split <;> omega

section
variable {c : Config} {f : Byte} {seq ack : Word} {payload : List Byte}

@[simp] theorem drop_pureFrame (body : List Byte) : (pureFrame c body).drop 4 = body := rfl

theorem wordAt_pureFrame_checksum (body : List Byte) : wordAt (pureFrame c body) 0 = c.hash body :=
  wordAt_append_be32 (front := []) rfl

theorem byteAt_pureFrame_version : byteAt (pureFrame c (pureBody c f seq ack payload)) 4 = c.version := rfl

theorem byteAt_pureFrame_flags : byteAt (pureFrame c (pureBody c f seq ack payload)) 5 = f := rfl

theorem wordAt_pureFrame_seq (hseq : hasSeq f = true) :
    wordAt (pureFrame c (pureBody c f seq ack payload)) seqOff = seq := by
  have hsplit : pureFrame c (pureBody c f seq ack payload) =
      (be32 (c.hash (pureBody c f seq ack payload)) ++ [c.version, f]) ++
        (be32 seq ++ ((if hasAck f then be32 ack else []) ++ payload)) := by
    simp [pureFrame, pureBody, hseq]
  rw [hsplit]
  exact wordAt_append_be32 rfl

theorem wordAt_pureFrame_ack (hack : hasAck f = true) :
    wordAt (pureFrame c (pureBody c f seq ack payload)) (ackOff f) = ack := by
  have hsplit : pureFrame c (pureBody c f seq ack payload) =
      (be32 (c.hash (pureBody c f seq ack payload)) ++ ([c.version, f] ++ if hasSeq f then be32 seq else [])) ++
        (be32 ack ++ payload) := by
    simp [pureFrame, pureBody, hack]
  rw [hsplit]
  refine wordAt_append_be32 ?_
  unfold ackOff
  split <;> rfl

theorem length_pureFrame : (pureFrame c (pureBody c f seq ack payload)).length = hdrLen f + payload.length := by
  rw [pureFrame, List.length_append, length_be32, Nat.add_comm, length_pureBody]

/-- The payload follows the header (R44). -/
theorem byteAt_pureFrame_payload (k : Nat) :
    byteAt (pureFrame c (pureBody c f seq ack payload)) (hdrLen f + k) = byteAt payload k := by
  obtain ⟨front, hsplit⟩ : ∃ front, pureFrame c (pureBody c f seq ack payload) = front ++ payload :=
    ⟨_, (List.append_assoc ..).symm⟩
  have hlen := length_pureFrame (c := c) (f := f) (seq := seq) (ack := ack) (payload := payload)
  rw [hsplit, List.length_append] at hlen
  rw [hsplit, ← Nat.add_right_cancel hlen, byteAt_append_right]

/-- A frame put together as R68 says is valid (R51) when it is no longer than `BUFLEN`. -/
theorem validFrame_pureFrame (hfit : hdrLen f + payload.length ≤ c.buflen) :
    ValidFrame c (pureFrame c (pureBody c f seq ack payload)) := by
  have hhdr := hdrLen_ge f
  unfold ValidFrame
  rw [length_pureFrame, byteAt_pureFrame_flags]
  exact ⟨by omega, hfit, wordAt_pureFrame_checksum _, byteAt_pureFrame_version, by omega⟩

end

/-! ### What ENCODE leaves -/

section
variable {c : Config} {s t : State}

/-- The block size gate decides the result code (R62, R63). -/
theorem encodeCommand_status_ok_iff : (encodeCommand c s).status = 0#8 ↔ blockTooLarge c s = false := by
  cases hgate : blockTooLarge c s with
  | true => simp [encodeCommand_tooLarge hgate]
  | false => simp [encodeCommand_fits hgate]

theorem exec_encode_eq_next_iff : exec .encode s = .next t ↔ t = encodeCommand Config.active s :=
  ⟨fun h => (Host.Outcome.next.inj h).symm, fun h => h ▸ rfl⟩

/-- An ENCODE that passes the size gate writes five registers and `TXF` (R60, R64). -/
theorem encodeCommand_registers (hgate : blockTooLarge c s = false) :
    { encodeCommand c s with txf := s.txf } =
      { s with
        txPoff := BitVec.ofNat 32 (hdrLen s.txFlags), txPdone := BitVec.ofNat 32 (placedCount c s)
        txLen := BitVec.ofNat 32 (frameLen c s), csum := c.hash (bodyBytes c s), status := 0#8 } := by
  rw [encodeCommand_fits hgate]
  rfl

theorem placedCount_le_payloadCap : placedCount c s ≤ payloadCap c s.txFlags := by
  unfold placedCount
  split <;> omega

/-- ENCODE takes no more from the window than it holds (R63). -/
theorem placedCount_le_pwinSize : placedCount c s ≤ c.buflen - 6 :=
  placedCount_le_payloadCap.trans (payloadCap_le_pwinSize c s.txFlags)

theorem placedCount_le_buflen : placedCount c s ≤ c.buflen :=
  placedCount_le_pwinSize.trans (Nat.sub_le ..)

theorem frameLen_eq : frameLen c s = hdrLen s.txFlags + placedCount c s := rfl

theorem txLen_encodeCommand (hgate : blockTooLarge c s = false) :
    (encodeCommand c s).txLen = BitVec.ofNat 32 (frameLen c s) :=
  congrArg State.txLen (encodeCommand_registers hgate)

theorem txPdone_encodeCommand (hgate : blockTooLarge c s = false) :
    (encodeCommand c s).txPdone = BitVec.ofNat 32 (placedCount c s) :=
  congrArg State.txPdone (encodeCommand_registers hgate)

theorem txPoff_encodeCommand (hgate : blockTooLarge c s = false) :
    (encodeCommand c s).txPoff = BitVec.ofNat 32 (hdrLen s.txFlags) :=
  congrArg State.txPoff (encodeCommand_registers hgate)

theorem csum_encodeCommand (hgate : blockTooLarge c s = false) : (encodeCommand c s).csum = c.hash (bodyBytes c s) :=
  congrArg State.csum (encodeCommand_registers hgate)

theorem toNat_txLen_encodeCommand (hgate : blockTooLarge c s = false) :
    (encodeCommand c s).txLen.toNat = frameLen c s := by
  rw [txLen_encodeCommand hgate, toNat_ofNat_of_le_buflen (frameLen_le s)]

theorem toNat_txPdone_encodeCommand (hgate : blockTooLarge c s = false) :
    (encodeCommand c s).txPdone.toNat = placedCount c s := by
  rw [txPdone_encodeCommand hgate, toNat_ofNat_of_le_buflen placedCount_le_buflen]

/-- The used region of `TXF` is the frame of the pure function (R68). -/
theorem bytes_encodeCommand (hgate : blockTooLarge c s = false) :
    (encodeCommand c s).bytes c .txf 0 (frameLen c s) = pureFrame c (bodyBytes c s) :=
  State.bytes_eq (length_pureFrame_body s) fun i hi => by
    rw [Nat.zero_add, load_encodeCommand hgate, if_pos hi]

theorem load_encodeCommand_frame (hgate : blockTooLarge c s = false) {x : Nat} (hx : x < frameLen c s) :
    (encodeCommand c s).load c .txf x = byteAt (pureFrame c (bodyBytes c s)) x := by
  rw [load_encodeCommand hgate, if_pos hx, byteAt]

/-- `TXF` beyond the frame keeps its bytes (R64). -/
theorem load_encodeCommand_beyond (hgate : blockTooLarge c s = false) {x : Nat} (hx : frameLen c s ≤ x) :
    (encodeCommand c s).load c .txf x = s.load c .txf x := by
  rw [load_encodeCommand hgate, if_neg (Nat.not_lt.mpr hx)]

theorem loadWord_encodeCommand_frame (hgate : blockTooLarge c s = false) {x : Nat} (hx : x + 4 ≤ frameLen c s) :
    (encodeCommand c s).loadWord c .txf x = wordAt (pureFrame c (bodyBytes c s)) x := by
  rw [← bytes_encodeCommand hgate, wordAt_bytes hx]

/-- The checksum field (R65). -/
theorem loadWord_encodeCommand_checksum (hgate : blockTooLarge c s = false) :
    (encodeCommand c s).loadWord c .txf 0 = c.hash (bodyBytes c s) := by
  have hlen := frameLen_ge (c := c) s
  rw [loadWord_encodeCommand_frame hgate (by omega), wordAt_pureFrame_checksum]

/-- What the checksum is taken over (R65). -/
theorem bytes_encodeCommand_body (hgate : blockTooLarge c s = false) :
    (encodeCommand c s).bytes c .txf 4 (frameLen c s - 4) = bodyBytes c s := by
  have hlen := frameLen_ge (c := c) s
  rw [← drop_pureFrame (c := c) (bodyBytes c s), ← bytes_encodeCommand hgate, State.drop_bytes _ _ (by omega),
    Nat.zero_add]

theorem loadWord_encodeCommand_seq (hgate : blockTooLarge c s = false) (hseq : hasSeq s.txFlags = true) :
    (encodeCommand c s).loadWord c .txf seqOff = s.txSeq := by
  have hfit : seqOff + 4 ≤ frameLen c s := (seqOff_add_le_hdrLen hseq).trans (Nat.le_add_right ..)
  rw [loadWord_encodeCommand_frame hgate hfit]
  exact wordAt_pureFrame_seq hseq

theorem loadWord_encodeCommand_ack (hgate : blockTooLarge c s = false) (hack : hasAck s.txFlags = true) :
    (encodeCommand c s).loadWord c .txf (ackOff s.txFlags) = s.txAck := by
  have hfit : ackOff s.txFlags + 4 ≤ frameLen c s := (ackOff_add_le_hdrLen hack).trans (Nat.le_add_right ..)
  rw [loadWord_encodeCommand_frame hgate hfit]
  exact wordAt_pureFrame_ack hack

/-- The bytes placed are the first bytes of the window (R60, R63). -/
theorem load_encodeCommand_payload (hgate : blockTooLarge c s = false) {i : Nat} (hi : i < placedCount c s) :
    (encodeCommand c s).load c .txf (hdrLen s.txFlags + i) = s.load c .pwin i := by
  rw [load_encodeCommand_frame hgate (Nat.add_lt_add_left hi _), bodyBytes, byteAt_pureFrame_payload, byteAt_bytes hi]

end

/-! ### The operands of ENCODE (R60, R68) -/

section
variable {c : Config} {s t : State}

/-- Two states agree on all that ENCODE reads: its four operand registers and the payload window. -/
structure SameOperands (c : Config) (s t : State) : Prop where
  txFlags : t.txFlags = s.txFlags
  txSeq : t.txSeq = s.txSeq
  txAck : t.txAck = s.txAck
  txPlen : t.txPlen = s.txPlen
  pwin : ∀ i, i < c.buflen - 6 → t.load c .pwin i = s.load c .pwin i

theorem SameOperands.blockTooLarge_eq (h : SameOperands c s t) : blockTooLarge c t = blockTooLarge c s := by
  simp only [blockTooLarge, h.txFlags, h.txPlen]

theorem SameOperands.placedCount_eq (h : SameOperands c s t) : placedCount c t = placedCount c s := by
  simp only [placedCount, h.txFlags, h.txPlen]

theorem SameOperands.frameLen_eq (h : SameOperands c s t) : frameLen c t = frameLen c s := by
  simp only [frameLen, h.txFlags, h.placedCount_eq]

theorem SameOperands.bodyBytes_eq (h : SameOperands c s t) : bodyBytes c t = bodyBytes c s := by
  have hpayload : t.bytes c .pwin 0 (placedCount c s) = s.bytes c .pwin 0 (placedCount c s) :=
    State.bytes_congr fun i hi => by
      rw [Nat.zero_add]
      exact h.pwin i (hi.trans_le placedCount_le_pwinSize)
  simp only [bodyBytes, h.txFlags, h.txSeq, h.txAck, h.placedCount_eq, hpayload]

/-- ENCODE keeps its operands (R16, R67). -/
theorem sameOperands_encodeCommand (c : Config) (s : State) : SameOperands c s (encodeCommand c s) := by
  rw [encodeCommand_frame s]
  exact ⟨rfl, rfl, rfl, rfl, fun i _ => State.load_withCommandEffects (by decide)⟩

/-- The window's first bytes are those of the payload offered, as many as are placed (R68). -/
theorem bytes_pwin_eq_take {payload : List Byte} (hlen : payload.length = s.txPlen.toNat)
    (hpwin : ∀ i, i < payload.length → i < c.buflen - 6 → s.load c .pwin i = byteAt payload i) :
    s.bytes c .pwin 0 (placedCount c s) = payload.take (placedCount c s) := by
  have hcount : placedCount c s ≤ payload.length := by
    unfold placedCount
    split <;> omega
  refine State.bytes_eq (by rw [List.length_take, Nat.min_eq_left hcount]) fun i hi => ?_
  rw [Nat.zero_add, hpwin i (hi.trans_le hcount) (hi.trans_le placedCount_le_pwinSize), byteAt,
    List.getD_eq_getElem?_getD, List.getD_eq_getElem?_getD, List.getElem?_take_of_lt hi]

/-- The pure function, at the operands of a state, is ENCODE's gate, its frame and its count (R68). -/
theorem pureEncode_eq {payload : List Byte} (hlen : payload.length = s.txPlen.toNat)
    (hpwin : ∀ i, i < payload.length → i < c.buflen - 6 → s.load c .pwin i = byteAt payload i) :
    pureEncode c s.txFlags s.txSeq s.txAck payload =
      if blockTooLarge c s = true then .error .blockTooLarge
      else .ok (pureFrame c (bodyBytes c s), placedCount c s) := by
  have hgate : (hasPay s.txFlags ∧ flagSet s.txFlags .blk ∧ c.buflen - hdrLen s.txFlags < payload.length) ↔
      blockTooLarge c s = true := by
    rw [blockTooLarge_eq_true, hlen]
    exact and_iff_right_of_imp fun h => hasPay_of_blk h.1
  have hcount : (if hasPay s.txFlags then min payload.length (c.buflen - hdrLen s.txFlags) else 0) =
      placedCount c s := by rw [hlen]; rfl
  unfold pureEncode bodyBytes
  simp only [hgate, hcount, bytes_pwin_eq_take hlen hpwin]

end

/-! ### DECODE of a received frame (R70 to R77) -/

section
variable {c : Config} {u : State} {f : Byte} {seq ack : Word} {payload : List Byte}

theorem decodeCommand_of_validFrame (h : ValidFrame c (u.bytes c .rxf 0 u.rxLen.toNat)) :
    decodeCommand c u =
      (extractMessage c u.rxLen.toNat
        { u with csum := c.hash (u.bytes c .rxf 4 (u.rxLen.toNat - 4)) }).finish .ok := by
  obtain ⟨hge, hle, hsum, hversion, hheader⟩ := validFrame_bytes_iff.mp h
  rw [decodeCommand_checked hle hge]
  exact (if_neg (not_not.mpr hsum.symm)).trans
    ((if_neg (not_not.mpr hversion)).trans (if_neg (Nat.not_lt.mpr hheader)))

/-- DECODE yields the message a received frame was put together from (R76, R77). -/
theorem decodeCommand_of_pureFrame
    (hreceived : u.bytes c .rxf 0 u.rxLen.toNat = pureFrame c (pureBody c f seq ack payload))
    (hfit : hdrLen f + payload.length ≤ c.buflen) (hpay : hasPay f = false → payload = []) :
    decodeCommand c u =
      { u with
        csum := c.hash (pureBody c f seq ack payload), rxFlags := f
        rxSeq := if hasSeq f then seq else 0#32, rxAck := if hasAck f then ack else 0#32
        rxPoff := BitVec.ofNat 32 (hdrLen f), rxPlen := BitVec.ofNat 32 payload.length, status := 0#8 } := by
  have hlen : u.rxLen.toNat = hdrLen f + payload.length := by
    rw [← length_pureFrame (c := c) (seq := seq) (ack := ack), ← hreceived, State.length_bytes]
  have hhdr := hdrLen_ge f
  have hbody : u.bytes c .rxf 4 (u.rxLen.toNat - 4) = pureBody c f seq ack payload := by
    rw [← drop_pureFrame (c := c) (pureBody c f seq ack payload), ← hreceived, State.drop_bytes _ _ (by omega),
      Nat.zero_add]
  have hflags : u.load c .rxf 5 = f := by
    rw [← byteAt_bytes (n := u.rxLen.toNat) (by omega), hreceived, byteAt_pureFrame_flags]
  have hseq : (if hasSeq f then u.loadWord c .rxf seqOff else 0#32) = if hasSeq f then seq else 0#32 := by
    refine ite_congr rfl (fun h => ?_) fun _ => rfl
    have := seqOff_add_le_hdrLen h
    rw [← wordAt_bytes (n := u.rxLen.toNat) (by omega), hreceived, wordAt_pureFrame_seq h]
  have hack : (if hasAck f then u.loadWord c .rxf (ackOff f) else 0#32) = if hasAck f then ack else 0#32 := by
    refine ite_congr rfl (fun h => ?_) fun _ => rfl
    have := ackOff_add_le_hdrLen h
    rw [← wordAt_bytes (n := u.rxLen.toNat) (by omega), hreceived, wordAt_pureFrame_ack h]
  have hplen : (if hasPay f then BitVec.ofNat 32 (u.rxLen.toNat - hdrLen f) else 0#32) =
      BitVec.ofNat 32 payload.length := by
    split
    · rw [hlen, Nat.add_sub_cancel_left]
    · next h => rw [hpay (Bool.eq_false_iff.mpr h), List.length_nil]
  have hvalid : ValidFrame c (u.bytes c .rxf 0 u.rxLen.toNat) := hreceived ▸ validFrame_pureFrame hfit
  rw [decodeCommand_of_validFrame hvalid, hbody, ← hseq, ← hack, ← hplen, ← hflags]
  rfl

end

end Sys2Proof.Machine

namespace Sys2Proof.Proofs
open Sys2Proof.Machine

/-- Settles O28: above the capacity ENCODE stops at the gate; up to it the whole payload is placed, and at it the frame
is full. -/
theorem blockSizeGate : Obligations.BlockSizeGate := by
  intro s hblk
  refine ⟨fun hover => ?_, fun hfits => ?_⟩
  · exact exec_encode_eq_next_iff.mpr (encodeCommand_tooLarge ((blockTooLarge_eq_true s).mpr ⟨hblk, hover⟩)).symm
  · have hgate : blockTooLarge Config.active s = false :=
      Bool.eq_false_iff.mpr fun h => Nat.not_lt.mpr hfits ((blockTooLarge_eq_true s).mp h).2
    have hcount : placedCount Config.active s = s.txPlen.toNat := by
      rw [placedCount, if_pos (hasPay_of_blk hblk)]
      exact Nat.min_eq_left hfits
    refine ⟨_, rfl, encodeCommand_status_ok_iff.mpr hgate, ?_, fun hexact => ?_⟩
    · rw [txPdone_encodeCommand hgate, hcount, BitVec.ofNat_toNat, BitVec.setWidth_eq]
    · rw [toNat_txLen_encodeCommand hgate, frameLen_eq, hcount, hexact]
      exact hdrLen_add_cap Config.active s.txFlags

/-- Settles O29: past the gate each field is read off the frame of `bytes_encodeCommand`. -/
theorem encodeWritesFrame : Obligations.EncodeWritesFrame := by
  intro s
  refine ⟨fun hlarge => ?_, fun hnot => ?_⟩
  · exact exec_encode_eq_next_iff.mpr (encodeCommand_tooLarge ((blockTooLarge_eq_true s).mpr hlarge)).symm
  · have hgate : blockTooLarge Config.active s = false :=
      Bool.eq_false_iff.mpr fun h => hnot ((blockTooLarge_eq_true s).mp h)
    have hlen := frameLen_ge (c := Config.active) s
    have hsum := loadWord_encodeCommand_checksum hgate
    refine ⟨_, rfl, ?_, ?_, loadWord_encodeCommand_seq hgate, loadWord_encodeCommand_ack hgate,
      fun i hi => load_encodeCommand_payload hgate hi, ?_, fun x hx => load_encodeCommand_beyond hgate hx, ?_⟩
    · exact (load_encodeCommand_frame hgate (by omega)).trans byteAt_pureFrame_version
    · exact (load_encodeCommand_frame hgate (by omega)).trans byteAt_pureFrame_flags
    · exact hsum.trans (congrArg Config.active.hash (bytes_encodeCommand_body hgate)).symm
    · exact hsum ▸ encodeCommand_registers hgate

/-- Settles O30: with BLK clear the gate is open, and DAT declares a payload. -/
theorem encodeTruncatesDat : Obligations.EncodeTruncatesDat := by
  intro s hdat hblk
  have hgate : blockTooLarge Config.active s = false := by simp [blockTooLarge, hblk]
  have hcount : placedCount Config.active s = min s.txPlen.toNat (payloadCap Config.active s.txFlags) :=
    if_pos (by simp [hasPay, hdat])
  have hcap := hdrLen_add_cap Config.active s.txFlags
  have hpdone := toNat_txPdone_encodeCommand hgate
  have htxLen := toNat_txLen_encodeCommand hgate
  refine ⟨_, rfl, encodeCommand_status_ok_iff.mpr hgate, hpdone.trans hcount,
    hpdone.trans_le placedCount_le_pwinSize, ?_, fun hover => ?_, fun i hi => ?_⟩
  · exact hpdone.symm ▸ htxLen
  · rw [htxLen, frameLen_eq, hcount, Nat.min_eq_right (b := payloadCap Config.active s.txFlags) hover.le, hcap]
  · exact load_encodeCommand_payload hgate (hpdone ▸ hi)

/-- Settles O31: `pureEncode_eq` turns the pure function into ENCODE's own gate, frame and count. -/
theorem encodeComputesPureFunction : Obligations.EncodeComputesPureFunction := by
  intro s payload hlen hpwin
  rw [pureEncode_eq hlen hpwin]
  cases hgate : blockTooLarge Config.active s with
  | true => exact exec_encode_eq_next_iff.mpr (encodeCommand_tooLarge hgate).symm
  | false =>
    simp only [Bool.false_eq_true, if_false, length_pureFrame_body, drop_pureFrame]
    exact ⟨_, rfl, bytes_encodeCommand hgate, fun x hx => load_encodeCommand_beyond hgate hx,
      encodeCommand_registers hgate⟩

/-- Settles O32: a successful ENCODE passed the gate, and its frame fits `TXF`. -/
theorem encodeProducesValidFrame : Obligations.EncodeProducesValidFrame := by
  intro s t hnext hok
  obtain rfl := exec_encode_eq_next_iff.mp hnext
  have hgate := encodeCommand_status_ok_iff.mp hok
  rw [toNat_txLen_encodeCommand hgate, bytes_encodeCommand hgate]
  apply validFrame_pureFrame
  rw [State.length_bytes]
  exact frameLen_le s

/-- Settles O33: the received bytes are the frame of the pure function, and DECODE takes it apart. -/
theorem encodeDecodeMessageRoundTrip : Obligations.EncodeDecodeMessageRoundTrip := by
  intro s t u hnext hok hrxLen hsame
  obtain rfl := exec_encode_eq_next_iff.mp hnext
  have hgate := encodeCommand_status_ok_iff.mp hok
  have htxLen := toNat_txLen_encodeCommand hgate
  have hreceived : u.bytes Config.active .rxf 0 u.rxLen.toNat =
      pureFrame Config.active (bodyBytes Config.active s) := by
    rw [hrxLen, htxLen, ← bytes_encodeCommand hgate]
    exact State.bytes_congr fun i hi => by rw [Nat.zero_add]; exact hsame i (htxLen ▸ hi)
  have hdecode := decodeCommand_of_pureFrame hreceived (by rw [State.length_bytes]; exact frameLen_le s)
    (fun hnone => by simp [placedCount, hnone, State.bytes, Memory.span])
  rw [State.length_bytes] at hdecode
  refine ⟨decodeCommand Config.active u, rfl, ?_⟩
  simp only [load_decodeCommand]
  rw [hdecode, txPoff_encodeCommand hgate, txPdone_encodeCommand hgate]
  refine ⟨rfl, rfl, rfl, rfl, rfl, rfl, fun i hi => ?_⟩
  rw [toNat_ofNat_of_le_buflen placedCount_le_buflen] at hi
  rw [toNat_ofNat_of_le_buflen (hdrLen_le_buflen Config.active s.txFlags), ← load_encodeCommand_payload hgate hi]
  exact hsame _ (htxLen ▸ Nat.add_lt_add_left hi _)

/-- Settles O34: ENCODE keeps its operands, so the second one meets the same gate and writes the same frame. -/
theorem encodeTwice : Obligations.EncodeTwice := by
  intro s t hnext
  obtain rfl := exec_encode_eq_next_iff.mp hnext
  have hops := sameOperands_encodeCommand Config.active s
  refine ⟨_, rfl, ?_⟩
  cases hgate : blockTooLarge Config.active s with
  | true =>
    have hagain : encodeCommand Config.active (encodeCommand Config.active s) = encodeCommand Config.active s := by
      rw [encodeCommand_tooLarge hgate, encodeCommand_with_status, encodeCommand_tooLarge hgate]
    rw [hagain]
    exact ⟨fun x => rfl, rfl⟩
  | false =>
    have hgate' := hops.blockTooLarge_eq.trans hgate
    refine ⟨fun x => ?_, ?_⟩
    · rw [load_encodeCommand hgate' x, hops.frameLen_eq, hops.bodyBytes_eq]
      split
      · next hx => exact load_encodeCommand_frame hgate hx
      · rfl
    · rw [encodeCommand_registers hgate', hops.txFlags, hops.placedCount_eq, hops.frameLen_eq, hops.bodyBytes_eq,
        encodeCommand_fits hgate]
      rfl

/-- Settles O35: equal operands meet the same gate, and past it give the same frame and registers. -/
theorem encodeDependsOnlyOnOperands : Obligations.EncodeDependsOnlyOnOperands := by
  intro s s' t t' hflags hseq hack hplen hpwin hnext hnext'
  obtain rfl := exec_encode_eq_next_iff.mp hnext
  obtain rfl := exec_encode_eq_next_iff.mp hnext'
  have hops : SameOperands Config.active s' s := ⟨hflags, hseq, hack, hplen, hpwin⟩
  cases hgate : blockTooLarge Config.active s with
  | true =>
    have hgate' := hops.blockTooLarge_eq.symm.trans hgate
    rw [encodeCommand_tooLarge hgate, encodeCommand_tooLarge hgate']
    exact ⟨rfl, fun hok => absurd hok (by decide : 4#8 ≠ 0#8)⟩
  | false =>
    have hgate' := hops.blockTooLarge_eq.symm.trans hgate
    have hok := encodeCommand_status_ok_iff.mpr hgate
    have hok' := encodeCommand_status_ok_iff.mpr hgate'
    refine ⟨hok.trans hok'.symm, fun _ => ⟨?_, ?_, ?_, ?_, fun x hx => ?_⟩⟩
    · rw [txLen_encodeCommand hgate, txLen_encodeCommand hgate', hops.frameLen_eq]
    · rw [txPdone_encodeCommand hgate, txPdone_encodeCommand hgate', hops.placedCount_eq]
    · rw [txPoff_encodeCommand hgate, txPoff_encodeCommand hgate', hflags]
    · rw [csum_encodeCommand hgate, csum_encodeCommand hgate', hops.bodyBytes_eq]
    · rw [toNat_txLen_encodeCommand hgate] at hx
      rw [load_encodeCommand_frame hgate hx, load_encodeCommand_frame hgate' (hops.frameLen_eq ▸ hx),
        hops.bodyBytes_eq]

end Sys2Proof.Proofs
end

section
/-! DECODE (spec/41_decode.md): what it answers under each of its checks, the pure function said of the buffer's loads,
one flipped bit of a received frame, and the statements of the decode family. -/

namespace Sys2Proof.Machine

/-! ### What DECODE answers, by the first check that fails (R70 to R75) -/

section
variable {s : State}

theorem exec_decode_tooLong (hlong : Config.active.buflen < s.rxLen.toNat) :
    exec .decode s = .next { s with status := 13#8 } :=
  congrArg Host.Outcome.next (if_pos hlong)

theorem exec_decode_tooShort (hshort : s.rxLen.toNat < 6) : exec .decode s = .next { s with status := 2#8 } := by
  have hfits : ¬ Config.active.buflen < s.rxLen.toNat := by
    have := buflen_ge Config.active
    omega
  exact congrArg Host.Outcome.next ((if_neg hfits).trans (if_pos hshort))

variable (hge : 6 ≤ s.rxLen.toNat) (hle : s.rxLen.toNat ≤ Config.active.buflen)
include hge hle

/-- Past the length checks `CSUM` is recomputed and the remaining checks follow (R73). -/
theorem exec_decode_checked :
    exec .decode s =
      .next (checkFrame Config.active s.rxLen.toNat { s with csum := Claims.recomputed s }) :=
  congrArg Host.Outcome.next (decodeCommand_checked hle hge)

theorem exec_decode_badChecksum (hsum : Claims.recomputed s ≠ s.loadWord Config.active .rxf 0) :
    exec .decode s = .next { s with status := 3#8, csum := Claims.recomputed s } :=
  (exec_decode_checked hge hle).trans (congrArg _ (if_pos hsum))

variable (hsum : Claims.recomputed s = s.loadWord Config.active .rxf 0)
include hsum

theorem exec_decode_foreignVersion (hversion : s.load Config.active .rxf 4 ≠ Config.active.version) :
    exec .decode s = .next { s with status := 1#8, csum := Claims.recomputed s } :=
  (exec_decode_checked hge hle).trans (congrArg _ ((if_neg (not_not.mpr hsum)).trans (if_pos hversion)))

variable (hversion : s.load Config.active .rxf 4 = Config.active.version)
include hversion

theorem exec_decode_headerOverrun (hheader : s.rxLen.toNat < hdrLen (s.load Config.active .rxf 5)) :
    exec .decode s = .next { s with status := 2#8, csum := Claims.recomputed s } :=
  (exec_decode_checked hge hle).trans
    (congrArg _ ((if_neg (not_not.mpr hsum)).trans ((if_neg (not_not.mpr hversion)).trans (if_pos hheader))))

/-- The conditions under which no check fails are those on a valid frame (R51). -/
theorem validFrame_received (hheader : hdrLen (s.load Config.active .rxf 5) ≤ s.rxLen.toNat) :
    ValidFrame Config.active (Claims.received s) :=
  validFrame_bytes_iff.mpr ⟨hge, hle, hsum.symm, hversion, hheader⟩

end

section
variable {c : Config} {s : State} {n : Nat}

/-- A failed check after the length checks writes `STATUS` only (R78). -/
theorem checkFrame_failed (hfail : (checkFrame c n s).status ≠ 0#8) :
    checkFrame c n s = { s with status := (checkFrame c n s).status } := by
  unfold checkFrame at hfail ⊢
  split_ifs at hfail ⊢
  · rfl
  · rfl
  · rfl
  · exact absurd rfl hfail

/-- DECODE does not read `CSUM`, and past the length checks it overwrites it (R14). -/
theorem decodeCommand_with_status_csum (hge : 6 ≤ s.rxLen.toNat) (hle : s.rxLen.toNat ≤ c.buflen) (old : Byte)
    (sum : Word) : decodeCommand c { s with status := old, csum := sum } = decodeCommand c s := by
  rw [decodeCommand_checked hle hge, decodeCommand_checked (s := { s with status := old, csum := sum }) hle hge]
  rfl

/-! ### The pure function, said of the buffer's loads (R79) -/

/-- The message that the first `n` bytes of `RXF` carry when they are a valid frame (R76, R77). -/
def messageIn (c : Config) (s : State) (n : Nat) : Message :=
  let f := s.load c .rxf 5
  { flags := f
    seq := if hasSeq f then s.loadWord c .rxf seqOff else 0#32
    ack := if hasAck f then s.loadWord c .rxf (ackOff f) else 0#32
    payload := if hasPay f then s.bytes c .rxf (hdrLen f) (n - hdrLen f) else [] }

theorem pureDecode_bytes :
    pureDecode c (s.bytes c .rxf 0 n) =
      if n < 6 then .error .short
      else if s.loadWord c .rxf 0 ≠ c.hash (s.bytes c .rxf 4 (n - 4)) then .error .checksum
      else if s.load c .rxf 4 ≠ c.version then .error .version
      else if n < hdrLen (s.load c .rxf 5) then .error .short
      else .ok (messageIn c s n) := by
  unfold pureDecode
  rw [State.length_bytes]
  refine ite_congr rfl (fun _ => rfl) fun hlen => ?_
  rw [wordAt_bytes (by omega), byteAt_bytes (by omega), byteAt_bytes (by omega), State.drop_bytes s .rxf (by omega),
    Nat.zero_add]
  refine ite_congr rfl (fun _ => rfl) fun _ => ite_congr rfl (fun _ => rfl) fun _ =>
    ite_congr rfl (fun _ => rfl) fun hheader => ?_
  have hseq : (if hasSeq (s.load c .rxf 5) then wordAt (s.bytes c .rxf 0 n) seqOff else 0#32) =
      (messageIn c s n).seq := by
    refine ite_congr rfl (fun h => ?_) fun _ => rfl
    exact wordAt_bytes ((seqOff_add_le_hdrLen h).trans (Nat.le_of_not_lt hheader))
  have hack : (if hasAck (s.load c .rxf 5) then wordAt (s.bytes c .rxf 0 n) (ackOff (s.load c .rxf 5)) else 0#32) =
      (messageIn c s n).ack := by
    refine ite_congr rfl (fun h => ?_) fun _ => rfl
    exact wordAt_bytes ((ackOff_add_le_hdrLen h).trans (Nat.le_of_not_lt hheader))
  rw [hseq, hack, State.drop_bytes s .rxf (Nat.le_of_not_lt hheader), Nat.zero_add]
  rfl

/-- The payload's length is what DECODE reports in `RX_PLEN` (R77). -/
theorem length_messageIn_payload :
    (messageIn c s n).payload.length = if hasPay (s.load c .rxf 5) then n - hdrLen (s.load c .rxf 5) else 0 := by
  rw [messageIn, apply_ite List.length, State.length_bytes, List.length_nil]

theorem length_messageIn_payload_le : (messageIn c s n).payload.length ≤ n := by
  rw [length_messageIn_payload]
  split <;> omega

/-- The payload is a span of `RXF` behind the header (R77). -/
theorem bytes_messageIn_payload :
    s.bytes c .rxf (hdrLen (s.load c .rxf 5)) (messageIn c s n).payload.length = (messageIn c s n).payload := by
  rw [length_messageIn_payload, messageIn]
  split <;> rfl

end

/-- DECODE of a valid frame reports the message in it (R76, R77). -/
theorem exec_decode_of_validFrame {s : State} (hvalid : ValidFrame Config.active (Claims.received s)) :
    exec .decode s = .next
      { s with
        status := 0#8
        csum := wordAt (Claims.received s) 0
        rxFlags := (messageIn Config.active s s.rxLen.toNat).flags
        rxSeq := (messageIn Config.active s s.rxLen.toNat).seq
        rxAck := (messageIn Config.active s s.rxLen.toNat).ack
        rxPoff := BitVec.ofNat 32 (hdrLen (messageIn Config.active s s.rxLen.toNat).flags)
        rxPlen := BitVec.ofNat 32 (messageIn Config.active s s.rxLen.toNat).payload.length } := by
  obtain ⟨hge, -, hsum, -, -⟩ := validFrame_bytes_iff.mp hvalid
  rw [Claims.received, wordAt_bytes (by omega), hsum, length_messageIn_payload, apply_ite (BitVec.ofNat 32)]
  exact congrArg Host.Outcome.next (decodeCommand_of_validFrame hvalid)

/-! ### One flipped bit of a received frame (R87) -/

section
variable {c : Config} {s s' : State} {b : Buf} {a n p : Nat} {j : Fin 8}

/-- A span around one of its bytes. -/
theorem State.bytes_eq_append_cons (s : State) (hp : p < n) :
    s.bytes c b a n = s.bytes c b a p ++ s.load c b (a + p) :: s.bytes c b (a + p + 1) (n - (p + 1)) := by
  calc s.bytes c b a n = s.bytes c b a (p + (n - (p + 1) + 1)) := by congr 1; omega
    _ = _ := s.bytes_append b a p _

theorem differInOneBit_bytes (hp : p < n) (hflip : s'.load c b (a + p) = s.load c b (a + p) ^^^ (1#8 <<< j.val))
    (hsame : ∀ i, i < n → i ≠ p → s'.load c b (a + i) = s.load c b (a + i)) :
    DifferInOneBit (s.bytes c b a n) (s'.bytes c b a n) := by
  refine ⟨s.bytes c b a p, s.bytes c b (a + p + 1) (n - (p + 1)), s.load c b (a + p), j,
    s.bytes_eq_append_cons hp, ?_⟩
  have hbefore : s'.bytes c b a p = s.bytes c b a p :=
    State.bytes_congr fun i hi => hsame i (hi.trans hp) hi.ne
  have hafter : s'.bytes c b (a + p + 1) (n - (p + 1)) = s.bytes c b (a + p + 1) (n - (p + 1)) :=
    State.bytes_congr fun i hi => by
      have := hsame (p + 1 + i) (by omega) (by omega)
      rwa [show a + p + 1 + i = a + (p + 1 + i) by omega]
  rw [s'.bytes_eq_append_cons hp, hbefore, hafter, hflip]

/-- Equal 32-bit values stand for equal bytes (R33). -/
theorem State.load_eq_of_loadWord_eq (h : s'.loadWord c b a = s.loadWord c b a) {i : Nat} (hi : i < 4) :
    s'.load c b (a + i) = s.load c b (a + i) := by
  obtain ⟨h0, h1, h2, h3⟩ := ofBe32_injective h
  interval_cases i
  · exact h0
  · exact h1
  · exact h2
  · exact h3

/-- One flipped bit changes the stored checksum or the recomputed one, not both (R87). -/
theorem hash_ne_loadWord_of_flip (hge : 6 ≤ n) (hle : n ≤ c.buflen) (hp : p < n)
    (hsum : c.hash (s.bytes c b 4 (n - 4)) = s.loadWord c b 0)
    (hflip : s'.load c b p = s.load c b p ^^^ (1#8 <<< j.val))
    (hsame : ∀ x, x < n → x ≠ p → s'.load c b x = s.load c b x) :
    c.hash (s'.bytes c b 4 (n - 4)) ≠ s'.loadWord c b 0 := by
  rcases Nat.lt_or_ge p 4 with hfield | hbody
  · have hbytes : s'.bytes c b 4 (n - 4) = s.bytes c b 4 (n - 4) :=
      State.bytes_congr fun i hi => hsame _ (by omega) (by omega)
    rw [hbytes, hsum]
    intro hword
    have hbyte := State.load_eq_of_loadWord_eq hword.symm hfield
    rw [Nat.zero_add, hflip] at hbyte
    exact flip_ne _ _ hbyte
  · obtain ⟨q, rfl⟩ := Nat.exists_eq_add_of_le hbody
    have hword : s'.loadWord c b 0 = s.loadWord c b 0 :=
      State.loadWord_congr fun i hi => hsame _ (by omega) (by omega)
    have hshort : (s.bytes c b 4 (n - 4)).length ≤ c.buflenExtra.val + 10 := by
      rw [State.length_bytes]
      unfold Config.buflen at hle
      omega
    have hdiffer : DifferInOneBit (s.bytes c b 4 (n - 4)) (s'.bytes c b 4 (n - 4)) :=
      differInOneBit_bytes (by omega) hflip fun i hi hne => hsame _ (by omega) (by omega)
    rw [hword, ← hsum]
    exact (c.hash_single_bit _ _ hshort hdiffer).symm

end

end Sys2Proof.Machine

namespace Sys2Proof.Proofs
open Sys2Proof.Machine

/-- Settles O40: each branch of the chain is one of DECODE's answers. -/
theorem decodeCheckOrder : Obligations.DecodeCheckOrder := by
  intro s
  split_ifs with hlong hshort hsum hversion hheader
  · exact ⟨_, exec_decode_tooLong hlong, rfl⟩
  · exact ⟨_, exec_decode_tooShort hshort, rfl⟩
  · exact ⟨_, exec_decode_badChecksum (by omega) (by omega) hsum, rfl⟩
  · exact ⟨_, exec_decode_foreignVersion (by omega) (by omega) (not_not.mp hsum) hversion, rfl⟩
  · exact ⟨_, exec_decode_headerOverrun (by omega) (by omega) (not_not.mp hsum) (not_not.mp hversion) hheader, rfl⟩
  · have hvalid := validFrame_received (by omega) (by omega) (not_not.mp hsum) (not_not.mp hversion) (by omega)
    exact (decodeSucceedsExactlyOnValidFrames s).mpr ⟨by omega, hvalid⟩

/-- Settles O48: the two length checks come before everything else. -/
theorem decodeLengthChecks : Obligations.DecodeLengthChecks :=
  fun _ => ⟨exec_decode_tooLong, exec_decode_tooShort⟩

/-- Settles O41: a failed length check keeps `CSUM`; after it `checkFrame_failed` leaves only the recomputed one. -/
theorem decodeFailureState : Obligations.DecodeFailureState := by
  intro s t hnext hfail
  split_ifs with hlen
  · rcases hlen with hlong | hshort
    · rw [exec_decode_tooLong hlong] at hnext
      exact Host.Outcome.next.inj hnext ▸ rfl
    · rw [exec_decode_tooShort hshort] at hnext
      exact Host.Outcome.next.inj hnext ▸ rfl
  · rw [exec_decode_checked (by omega) (by omega)] at hnext
    obtain rfl := Host.Outcome.next.inj hnext
    exact checkFrame_failed hfail

/-- Settles O42: in a valid frame the stored checksum is the recomputed one. -/
theorem decodeExtractsMessage : Obligations.DecodeExtractsMessage := by
  intro s _ hvalid f
  obtain ⟨-, -, hsum, -, -⟩ := validFrame_bytes_iff.mp hvalid
  rw [hsum]
  exact congrArg Host.Outcome.next (decodeCommand_of_validFrame hvalid)

/-- Settles O43: the pure function meets the same checks, and its message is the one DECODE extracts. -/
theorem decodeComputesPureFunction : Obligations.DecodeComputesPureFunction := by
  intro s hle
  rw [Claims.received, pureDecode_bytes]
  split_ifs with hshort hsum hversion hheader
  · exact ⟨_, exec_decode_tooShort hshort, rfl⟩
  · exact ⟨_, exec_decode_badChecksum (by omega) hle (Ne.symm hsum), rfl⟩
  · exact ⟨_, exec_decode_foreignVersion (by omega) hle (not_not.mp hsum).symm hversion, rfl⟩
  · exact ⟨_, exec_decode_headerOverrun (by omega) hle (not_not.mp hsum).symm (not_not.mp hversion) hheader, rfl⟩
  · have hvalid := validFrame_received (by omega) hle (not_not.mp hsum).symm (not_not.mp hversion) (by omega)
    refine ⟨_, exec_decode_of_validFrame hvalid, ?_, rfl⟩
    show s.bytes Config.active .rxf (BitVec.ofNat 32 _).toNat (BitVec.ofNat 32 _).toNat = _
    rw [toNat_ofNat_of_le_buflen (hdrLen_le_buflen Config.active _),
      toNat_ofNat_of_le_buflen (length_messageIn_payload_le.trans hle)]
    exact bytes_messageIn_payload

/-- Settles O45: the flipped bit breaks the agreement of the two checksums, so the checksum check fails. -/
theorem checksumSensitivity : Obligations.ChecksumSensitivity := by
  intro s s' p j hle hvalid hlen hp hflip hsame
  obtain ⟨hge, -, hsum, -, -⟩ := validFrame_bytes_iff.mp hvalid
  have hbroken : Claims.recomputed s' ≠ s'.loadWord Config.active .rxf 0 := by
    rw [Claims.recomputed, hlen]
    exact hash_ne_loadWord_of_flip hge hle hp hsum.symm hflip hsame
  exact ⟨_, exec_decode_badChecksum (hlen ▸ hge) (hlen ▸ hle) hbroken, rfl⟩

/-- Settles O46: past the length checks the checksum is checked first, then the version byte. -/
theorem checksumThenVersionCheck : Obligations.ChecksumThenVersionCheck :=
  fun _ hge hle => ⟨exec_decode_badChecksum hge hle, exec_decode_foreignVersion hge hle⟩

/-- Settles O47: a header that ends with the received bytes makes a valid frame, with nothing left for a payload. -/
theorem optionalFieldOverrun : Obligations.OptionalFieldOverrun := by
  intro s hge hle hsum hversion
  refine ⟨exec_decode_headerOverrun hge hle hsum hversion, fun hheader => ?_⟩
  have hvalid := validFrame_received hge hle hsum hversion hheader.le
  refine ⟨_, decodeExtractsMessage s hle hvalid, rfl, ?_, ?_⟩
  · simp only [hheader, BitVec.ofNat_toNat, BitVec.setWidth_eq]
  · simp only [hheader, Nat.sub_self, ite_self]

/-- Settles O49: DECODE writes nothing that it reads, so the second one meets the same checks and the same bytes. -/
theorem decodeTwice : Obligations.DecodeTwice := by
  intro s t hnext
  by_cases hok : t.status = 0#8
  · obtain ⟨hle, hvalid⟩ := (decodeSucceedsExactlyOnValidFrames s).mp ⟨t, hnext, hok⟩
    obtain rfl := Host.Outcome.next.inj (hnext.symm.trans (decodeExtractsMessage s hle hvalid))
    exact decodeExtractsMessage _ hle hvalid
  · have hfailed := decodeFailureState s t hnext hok
    have hagain : decodeCommand Config.active t = decodeCommand Config.active s := by
      split_ifs at hfailed with hlen
      · rw [hfailed]
        exact decodeCommand_with_status s t.status
      · rw [hfailed]
        exact decodeCommand_with_status_csum (by omega) (by omega) t.status _
    exact (congrArg Host.Outcome.next hagain).trans hnext

end Sys2Proof.Proofs
end

section
/-! APPEND_FIN (spec/42_append_fin.md): the bytes and the checksum it leaves in `TXF`, the frame of ENCODE once FIN is
set in it, and the statements of the append_fin family. -/

namespace Sys2Proof.Machine

/-! ### What APPEND_FIN leaves (R80, R81) -/

section
variable {s t : State}

theorem exec_appendFin_eq_next_iff : exec .appendFin s = .next t ↔ t = appendFinCommand Config.active s :=
  ⟨fun h => (Host.Outcome.next.inj h).symm, fun h => h ▸ rfl⟩

theorem exec_appendFin_illegal (hlen : s.txLen.toNat < 6 ∨ Config.active.buflen < s.txLen.toNat) :
    exec .appendFin s = .next { s with status := 13#8 } :=
  congrArg Host.Outcome.next (appendFinCommand_illegal hlen)

end

section
variable {c : Config} {s : State} {x n : Nat} (hge : 6 ≤ s.txLen.toNat) (hle : s.txLen.toNat ≤ c.buflen)
include hge hle

/-- For a legal used length APPEND_FIN writes two registers and `TXF` (R80). -/
theorem appendFinCommand_registers :
    { appendFinCommand c s with txf := s.txf } = { s with csum := (appendFinCommand c s).csum, status := 0#8 } := by
  rw [appendFinCommand_legal hge hle]
  rfl

theorem status_appendFinCommand : (appendFinCommand c s).status = 0#8 :=
  congrArg State.status (appendFinCommand_registers hge hle)

theorem txLen_appendFinCommand : (appendFinCommand c s).txLen = s.txLen := by
  rw [appendFinCommand_legal hge hle]
  rfl

theorem load_appendFinCommand_flags :
    (appendFinCommand c s).load c .txf 5 = s.load c .txf 5 ||| 0x04#8 :=
  load_appendFinCommand hge hle 5

theorem load_appendFinCommand_other (hx : 4 ≤ x) (hne : x ≠ 5) :
    (appendFinCommand c s).load c .txf x = s.load c .txf x := by
  rw [load_appendFinCommand hge hle, if_neg (Nat.not_lt.mpr hx), if_neg hne]

/-- The body after APPEND_FIN is the body of before with its second byte marked. -/
theorem bytes_appendFinCommand_body :
    (appendFinCommand c s).bytes c .txf 4 n = (s.bytes c .txf 4 n).set 1 (s.load c .txf 5 ||| 0x04#8) := by
  refine State.bytes_eq (by simp) fun i hi => ?_
  by_cases hflags : i = 1
  · subst hflags
    rw [load_appendFinCommand_flags hge hle, List.getD_eq_getElem?_getD, List.getElem?_set_self (by simpa using hi),
      Option.getD_some]
  · rw [load_appendFinCommand_other hge hle (by omega) (by omega), List.getD_eq_getElem?_getD,
      List.getElem?_set_ne (Ne.symm hflags), ← List.getD_eq_getElem?_getD, State.getD_bytes s .txf hi]

/-- The checksum is taken over the body after the marking (R80, R82). -/
theorem csum_appendFinCommand :
    (appendFinCommand c s).csum = c.hash ((appendFinCommand c s).bytes c .txf 4 (s.txLen.toNat - 4)) := by
  have hbody : (appendFinCommand c s).bytes c .txf 4 (s.txLen.toNat - 4) =
      (setFin c s).bytes c .txf 4 (s.txLen.toNat - 4) :=
    State.bytes_congr fun i _ => by
      rw [load_appendFinCommand hge hle, if_neg (by omega), setFin, State.load_store]
      simp
  rw [hbody, appendFinCommand_legal hge hle]
  rfl

/-- The used region is its own body with the checksum before it (R65, R80). -/
theorem bytes_appendFinCommand :
    (appendFinCommand c s).bytes c .txf 0 s.txLen.toNat =
      pureFrame c ((appendFinCommand c s).bytes c .txf 4 (s.txLen.toNat - 4)) := by
  have hfield : (appendFinCommand c s).bytes c .txf 0 4 = be32 (appendFinCommand c s).csum :=
    State.bytes_eq rfl fun i hi => by rw [Nat.zero_add, load_appendFinCommand hge hle, if_pos hi]
  rw [pureFrame, ← csum_appendFinCommand hge hle, ← hfield, ← State.bytes_append, Nat.add_sub_cancel' (by omega)]

theorem loadWord_appendFinCommand_checksum :
    (appendFinCommand c s).loadWord c .txf 0 =
      c.hash ((appendFinCommand c s).bytes c .txf 4 (s.txLen.toNat - 4)) := by
  rw [← wordAt_bytes (n := s.txLen.toNat) (by omega), bytes_appendFinCommand hge hle, wordAt_pureFrame_checksum]

end

/-! ### APPEND_FIN after APPEND_FIN (R84) -/

section
variable {c : Config} {s : State} (hge : 6 ≤ s.txLen.toNat) (hle : s.txLen.toNat ≤ c.buflen)
include hge hle

/-- The flags byte is marked already, so the second marking changes nothing, and the checksum is the same again. -/
theorem appendFinCommand_twice :
    SameBytes c .txf (appendFinCommand c s) (appendFinCommand c (appendFinCommand c s)) ∧
      (appendFinCommand c (appendFinCommand c s)).csum = (appendFinCommand c s).csum := by
  have htxLen := txLen_appendFinCommand hge hle
  have hge' : 6 ≤ (appendFinCommand c s).txLen.toNat := htxLen ▸ hge
  have hle' : (appendFinCommand c s).txLen.toNat ≤ c.buflen := htxLen ▸ hle
  have hbody : ∀ x, 4 ≤ x → (appendFinCommand c s).load c .txf x =
      (appendFinCommand c (appendFinCommand c s)).load c .txf x := by
    intro x hx
    by_cases hflags : x = 5
    · subst hflags
      rw [load_appendFinCommand_flags hge' hle', load_appendFinCommand_flags hge hle, BitVec.or_assoc, BitVec.or_self]
    · rw [load_appendFinCommand_other hge' hle' hx hflags]
  have hsum : (appendFinCommand c (appendFinCommand c s)).csum = (appendFinCommand c s).csum := by
    rw [csum_appendFinCommand hge' hle', csum_appendFinCommand hge hle, htxLen]
    exact congrArg c.hash (State.bytes_congr fun i _ => (hbody _ (Nat.le_add_right ..)).symm)
  refine ⟨fun x => ?_, hsum⟩
  rcases Nat.lt_or_ge x 4 with hx | hx
  · rw [load_appendFinCommand hge' hle', load_appendFinCommand hge hle, if_pos hx, if_pos hx, hsum]
  · exact hbody x hx

end

/-! ### ENCODE with FIN among the flags (R83) -/

/-- The state with FIN set in the flags operand of ENCODE. -/
def State.offerFin (s : State) : State := { s with txFlags := s.txFlags ||| 0x04#8 }

section
variable {c : Config} {s : State}

@[simp] theorem State.offerFin_txFlags : s.offerFin.txFlags = s.txFlags ||| 0x04#8 := rfl

@[simp] theorem State.offerFin_txPlen : s.offerFin.txPlen = s.txPlen := rfl

theorem payloadCap_or_fin (f : Byte) : payloadCap c (f ||| 0x04#8) = payloadCap c f := by
  rw [payloadCap, payloadCap, hdrLen_or_fin]

theorem blockTooLarge_offerFin : blockTooLarge c s.offerFin = blockTooLarge c s := by
  simp [blockTooLarge, payloadCap_or_fin, flagSet_or_fin]

theorem placedCount_offerFin : placedCount c s.offerFin = placedCount c s := by
  simp [placedCount, payloadCap_or_fin]

theorem frameLen_offerFin : frameLen c s.offerFin = frameLen c s := by
  simp [frameLen, placedCount_offerFin]

/-- FIN declares no field: only the flags byte of the body differs. -/
theorem bodyBytes_offerFin : bodyBytes c s.offerFin = (bodyBytes c s).set 1 (s.txFlags ||| 0x04#8) := by
  unfold bodyBytes pureBody
  rw [placedCount_offerFin, State.offerFin_txFlags, hasSeq_or_fin, hasAck_or_fin]
  rfl

/-- APPEND_FIN turns the body ENCODE wrote into that of ENCODE with FIN among the flags. -/
theorem bytes_appendFinCommand_encodeCommand (hgate : blockTooLarge c s = false) :
    (appendFinCommand c (encodeCommand c s)).bytes c .txf 4 (frameLen c s - 4) = bodyBytes c s.offerFin := by
  have htxLen := toNat_txLen_encodeCommand hgate
  have hlen := frameLen_ge (c := c) s
  have hflags : (encodeCommand c s).load c .txf 5 = s.txFlags :=
    (load_encodeCommand_frame hgate (by omega)).trans byteAt_pureFrame_flags
  rw [bytes_appendFinCommand_body (htxLen ▸ hlen) (htxLen ▸ frameLen_le s), bytes_encodeCommand_body hgate, hflags,
    bodyBytes_offerFin]

end

end Sys2Proof.Machine

namespace Sys2Proof.Proofs
open Sys2Proof.Machine

/-- Settles O37; the used length is 0 right after reset. -/
theorem appendFinBadLength : Obligations.AppendFinBadLength :=
  ⟨fun _ => exec_appendFin_illegal, exec_appendFin_illegal (.inl (by decide))⟩

/-- Settles O36: for a legal used length each byte and register is read off what APPEND_FIN leaves. -/
theorem appendFinResult : Obligations.AppendFinResult := by
  intro s
  refine ⟨fun ⟨hge, hle⟩ => ?_, fun hnot => exec_appendFin_illegal (by omega)⟩
  have hsum := loadWord_appendFinCommand_checksum hge hle
  refine ⟨_, rfl, load_appendFinCommand_flags hge hle, fun x => load_appendFinCommand_other hge hle, hsum, ?_⟩
  rw [hsum, ← csum_appendFinCommand hge hle]
  exact appendFinCommand_registers hge hle

/-- Settles O39: an illegal used length fails again; for a legal one nothing is left to mark. -/
theorem appendFinTwice : Obligations.AppendFinTwice := by
  intro s t hnext
  obtain rfl := exec_appendFin_eq_next_iff.mp hnext
  refine ⟨_, rfl, ?_⟩
  by_cases hlegal : 6 ≤ s.txLen.toNat ∧ s.txLen.toNat ≤ Config.active.buflen
  · obtain ⟨hge, hle⟩ := hlegal
    have htxLen := txLen_appendFinCommand hge hle
    obtain ⟨hbytes, hsum⟩ := appendFinCommand_twice hge hle
    refine ⟨hbytes, ?_⟩
    rw [appendFinCommand_registers (htxLen ▸ hge) (htxLen ▸ hle), hsum, ← status_appendFinCommand hge hle]
  · have hfail := appendFinCommand_illegal (c := Config.active) (s := s) (by omega)
    have hagain : appendFinCommand Config.active (appendFinCommand Config.active s) =
        appendFinCommand Config.active s := by
      rw [hfail, State.finish, appendFinCommand_with_status, hfail, State.finish]
    rw [hagain]
    exact ⟨fun _ => rfl, rfl⟩

/-- Settles O38: both ways leave the frame around the body of `bytes_appendFinCommand_encodeCommand`. -/
theorem appendFinEqualsEncodingFin : Obligations.AppendFinEqualsEncodingFin := by
  intro s t hnext hok
  obtain rfl := exec_encode_eq_next_iff.mp hnext
  have hgate := encodeCommand_status_ok_iff.mp hok
  have hgate' := blockTooLarge_offerFin.trans hgate
  have hok' := encodeCommand_status_ok_iff.mpr hgate'
  have hlen := toNat_txLen_encodeCommand hgate
  have hge : 6 ≤ (encodeCommand Config.active s).txLen.toNat := hlen ▸ frameLen_ge s
  have hle : (encodeCommand Config.active s).txLen.toNat ≤ Config.active.buflen := hlen ▸ frameLen_le s
  have htxLen : (appendFinCommand Config.active (encodeCommand Config.active s)).txLen =
      (encodeCommand Config.active s.offerFin).txLen := by
    rw [txLen_appendFinCommand hge hle, txLen_encodeCommand hgate, txLen_encodeCommand hgate', frameLen_offerFin]
  have hsum := csum_appendFinCommand hge hle
  have hframe := bytes_appendFinCommand hge hle
  rw [hlen, bytes_appendFinCommand_encodeCommand hgate] at hsum hframe
  rw [← bytes_encodeCommand hgate', ← frameLen_offerFin, ← toNat_txLen_encodeCommand hgate', ← htxLen] at hframe
  refine ⟨_, _, rfl, rfl, status_appendFinCommand hge hle, hok', htxLen,
    hsum.trans (csum_encodeCommand hgate').symm, ?_, fun x hx => ?_⟩
  · rw [hframe, htxLen]
    exact encodeProducesValidFrame s.offerFin _ rfl hok'
  · rw [← byteAt_bytes hx, hframe]
    exact byteAt_bytes hx

end Sys2Proof.Proofs
end

section
/-! The checksum engine (spec/43_checksum.md): what HASH_TX and HASH_RX leave for a span inside and a span beyond the
buffer, the span from offset 4 that a frame's checksum is taken over, and the statements of the checksum family. -/

namespace Sys2Proof.Machine

section
variable {c : Config} {s : State}

/-! ### One checksum command, by where the span ends (R91) -/

theorem hashCommand_inside (b : Buf) (hfits : s.hoff.toNat + s.hlen.toNat ≤ c.buflen) :
    hashCommand c b s = { s with csum := c.hash (s.bytes c b s.hoff.toNat s.hlen.toNat), status := 0#8 } :=
  if_neg (Nat.not_lt.mpr hfits)

theorem hashCommand_beyond (b : Buf) (hbeyond : c.buflen < s.hoff.toNat + s.hlen.toNat) :
    hashCommand c b s = { s with status := 13#8 } :=
  if_pos hbeyond

/-! ### The span a frame's checksum is taken over -/

/-- `HOFF` and `HLEN` set to what follows the checksum field in a frame of length `len` (R91, R92). -/
def State.spanBody (s : State) (len : Word) : State := { s with hoff := 4#32, hlen := len - 4#32 }

variable {b b' : Buf} {len : Word}

@[simp] theorem State.load_spanBody (x : Nat) : (s.spanBody len).load c b x = s.load c b x :=
  State.load_congr_mem (by cases b <;> rfl) rfl

@[simp] theorem State.bytes_spanBody (a n : Nat) : (s.spanBody len).bytes c b a n = s.bytes c b a n :=
  State.bytes_congr fun _ _ => State.load_spanBody _

/-- Neither setting the span nor hashing it touches a buffer. -/
theorem loadWord_hashCommand_spanBody (a : Nat) :
    (hashCommand c b (s.spanBody len)).loadWord c b' a = s.loadWord c b' a :=
  State.loadWord_congr fun _ _ => (load_hashCommand b).trans (State.load_spanBody _)

theorem toNat_hlen_spanBody (hge : 6 ≤ len.toNat) : (s.spanBody len).hlen.toNat = len.toNat - 4 :=
  BitVec.toNat_sub_of_le (BitVec.le_def.mpr (by show 4 ≤ len.toNat; omega))

/-- For the length of a frame the span lies inside the buffer, so the command succeeds. -/
theorem hashCommand_spanBody (hge : 6 ≤ len.toNat) (hle : len.toNat ≤ c.buflen) :
    hashCommand c b (s.spanBody len) =
      { s.spanBody len with csum := c.hash (s.bytes c b 4 (len.toNat - 4)), status := 0#8 } := by
  have hoff : (s.spanBody len).hoff.toNat = 4 := rfl
  have hlen := toNat_hlen_spanBody (s := s) hge
  rw [hashCommand_inside b (by omega), hoff, hlen, State.bytes_spanBody]

theorem csum_hashCommand_spanBody (hge : 6 ≤ len.toNat) (hle : len.toNat ≤ c.buflen) :
    (hashCommand c b (s.spanBody len)).csum = c.hash (s.bytes c b 4 (len.toNat - 4)) :=
  congrArg State.csum (hashCommand_spanBody hge hle)

theorem status_hashCommand_spanBody (hge : 6 ≤ len.toNat) (hle : len.toNat ≤ c.buflen) :
    (hashCommand c b (s.spanBody len)).status = 0#8 :=
  congrArg State.status (hashCommand_spanBody hge hle)

/-! ### What ENCODE and DECODE leave in `CSUM` -/

/-- After a successful ENCODE, hashing behind the checksum field gives `CSUM` again (R65, R91). -/
theorem csum_hashCommand_encodeCommand (hgate : blockTooLarge c s = false) :
    (hashCommand c .txf ((encodeCommand c s).spanBody (encodeCommand c s).txLen)).csum = (encodeCommand c s).csum := by
  have hlen := toNat_txLen_encodeCommand hgate
  rw [csum_hashCommand_spanBody (hlen ▸ frameLen_ge s) (hlen ▸ frameLen_le s), hlen, bytes_encodeCommand_body hgate,
    csum_encodeCommand hgate]

/-- The checks after the length checks keep `CSUM`, whichever of them fails (R14, R78). -/
theorem csum_checkFrame (n : Nat) : (checkFrame c n s).csum = s.csum := by
  unfold checkFrame
  split_ifs <;> rfl

/-- Past the length checks DECODE leaves the value it compares (R73). -/
theorem csum_decodeCommand (hge : 6 ≤ s.rxLen.toNat) (hle : s.rxLen.toNat ≤ c.buflen) :
    (decodeCommand c s).csum = c.hash (s.bytes c .rxf 4 (s.rxLen.toNat - 4)) := by
  rw [decodeCommand_checked hle hge, csum_checkFrame]

end

end Sys2Proof.Machine

namespace Sys2Proof.Proofs
open Sys2Proof.Machine

/-- Settles O50: the frame of ENCODE lies inside `TXF`, and its checksum field holds `CSUM` (R65). -/
theorem hashTxResult : Obligations.HashTxResult := by
  refine ⟨fun s => ⟨fun hfits => congrArg Host.Outcome.next (hashCommand_inside .txf hfits),
    fun hbeyond => congrArg Host.Outcome.next (hashCommand_beyond .txf hbeyond)⟩, fun s t hnext hok => ?_⟩
  obtain rfl := exec_encode_eq_next_iff.mp hnext
  have hgate := encodeCommand_status_ok_iff.mp hok
  have hlen := toNat_txLen_encodeCommand hgate
  have hsum := csum_hashCommand_encodeCommand hgate
  have hfield : (encodeCommand Config.active s).csum = (encodeCommand Config.active s).loadWord Config.active .txf 0 :=
    (csum_encodeCommand hgate).trans (loadWord_encodeCommand_checksum hgate).symm
  exact ⟨_, rfl, status_hashCommand_spanBody (hlen ▸ frameLen_ge s) (hlen ▸ frameLen_le s),
    hsum.trans (hfield.trans (loadWord_hashCommand_spanBody 0).symm), hsum⟩

/-- Settles O51: DECODE and HASH_RX hash the same bytes, and DECODE's later checks keep the sum. -/
theorem hashRxResult : Obligations.HashRxResult := by
  refine ⟨fun s => ⟨fun hfits => congrArg Host.Outcome.next (hashCommand_inside .rxf hfits),
    fun hbeyond => congrArg Host.Outcome.next (hashCommand_beyond .rxf hbeyond)⟩, fun s t hge hle hnext => ?_⟩
  obtain rfl := Host.Outcome.next.inj hnext
  exact ⟨_, rfl, (csum_hashCommand_spanBody hge hle).trans (csum_decodeCommand hge hle).symm,
    status_hashCommand_spanBody hge hle⟩

/-- Settles O52: each sequence is folded byte by byte, eight bit steps to a byte, as R88 defines it. -/
theorem referenceHashCheckValues : Obligations.ReferenceHashCheckValues := by
  refine ⟨?_, ?_, ?_, ?_, ?_⟩ <;> simp [referenceHash, crcByte, crcBit]

end Sys2Proof.Proofs
end

section
/-! The host's accesses (spec/44_host_access.md): the table of R94 as the register write of the model, the byte accesses said
once for all three buffers, and the statements of the host access family. -/

namespace Sys2Proof.Machine

section
variable {c : Config} {s : State} {b : Buf} {a : Addr}

/-! ### Register writes (R94) -/

/-- The table of R94 and the write operation of the model agree, register by register; neither stores anything at a
reserved number (R26). -/
theorem registerWritten_eq_writeNumber (s : State) (a : Addr) (v : Word) :
    Claims.registerWritten s a v = writeNumber s a v := by
  rcases addr_eq_number_or_reserved a with ⟨r, rfl⟩ | h
  · cases r <;> rfl
  · obtain ⟨n, hn⟩ := Nat.exists_eq_add_of_le' h
    rw [writeNumber_of_reserved v h, Claims.registerWritten, hn]
    rfl

/-! ### Byte accesses by their offset (R96 to R101, R103) -/

theorem hostStore_inside (ha : a.toNat < c.bufSize b) (v : Byte) :
    hostStore c b a v s = .next (s.store c b a.toNat v) := if_pos ((inBuffer_eq_true c b a).mpr ha)

theorem hostLoad_inside (ha : a.toNat < c.bufSize b) :
    hostLoad c b a s = .next (s.answer ((s.load c b a.toNat).setWidth 32)) :=
  if_pos ((inBuffer_eq_true c b a).mpr ha)

/-- A byte access, whatever it would answer inside the buffer, is refused exactly outside of it. -/
theorem ite_inBuffer_eq_refused_iff (t : State) :
    (if inBuffer c b a then .next t else .refused (.outsideBuffer b a) : Host.Outcome State Fault Refusal) =
      .refused (.outsideBuffer b a) ↔ c.bufSize b ≤ a.toNat := by
  rw [← inBuffer_eq_false]
  cases inBuffer c b a <;> simp

theorem hostStore_eq_refused_iff (v : Byte) :
    hostStore c b a v s = .refused (.outsideBuffer b a) ↔ c.bufSize b ≤ a.toNat := ite_inBuffer_eq_refused_iff _

theorem hostLoad_eq_refused_iff : hostLoad c b a s = .refused (.outsideBuffer b a) ↔ c.bufSize b ≤ a.toNat :=
  ite_inBuffer_eq_refused_iff _

/-! ### The byte instructions, one for all three buffers -/

theorem exec_writeByteOf (b : Buf) (a : Addr) (v : Byte) (s : State) :
    exec (writeByteOf b a v) s = hostStore Config.active b a v s := by cases b <;> rfl

theorem exec_readByteOf (b : Buf) (a : Addr) (s : State) :
    exec (readByteOf b a) s = hostLoad Config.active b a s := by cases b <;> rfl

theorem exec_readByteOf_inside (ha : a.toNat < Config.active.bufSize b) (s : State) :
    exec (readByteOf b a) s =
      .next { s with result := some ((s.load Config.active b a.toNat).setWidth 32) } :=
  (exec_readByteOf b a s).trans (hostLoad_inside ha)

theorem exec_writeByteOf_eq_refused_iff (b : Buf) (a : Addr) (v : Byte) (s : State) :
    exec (writeByteOf b a v) s = .refused (.outsideBuffer b a) ↔ Config.active.bufSize b ≤ a.toNat := by
  rw [exec_writeByteOf, hostStore_eq_refused_iff]

theorem exec_readByteOf_eq_refused_iff (b : Buf) (a : Addr) (s : State) :
    exec (readByteOf b a) s = .refused (.outsideBuffer b a) ↔ Config.active.bufSize b ≤ a.toNat := by
  rw [exec_readByteOf, hostLoad_eq_refused_iff]

/-! ### One byte stored -/

/-- A store changes nothing outside the buffers. -/
theorem State.store_with_buffers (s : State) (b : Buf) (x : Nat) (v : Byte) :
    { s.store c b x v with txf := s.txf, rxf := s.rxf, pwin := s.pwin } = s := by cases b <;> rfl

theorem storesOneByte_writeByteOf (ha : a.toNat < Config.active.bufSize b) (v : Byte) :
    Claims.StoresOneByte b a v (writeByteOf b a v) := by
  intro s
  have hnext : exec (writeByteOf b a v) s = .next (s.store Config.active b a.toNat v) := by
    rw [exec_writeByteOf, hostStore_inside ha]
  refine ⟨_, hnext, ?_, fun b' x hother => ?_, s.store_with_buffers b a.toNat v⟩
  · rw [State.load_store, if_pos ⟨rfl, rfl⟩]
  · rw [State.load_store, if_neg (not_and_or.mpr hother)]

end

end Sys2Proof.Machine

namespace Sys2Proof.Proofs
open Sys2Proof.Machine

/-- Settles O14: `WRREG` writes by number, which is the table of R94. -/
theorem wrregWritesRegister : Obligations.WrregWritesRegister := by
  intro a v s ha
  rw [exec_wrreg ha, registerWritten_eq_writeNumber]

/-- Settles O18, the one argument at each buffer. -/
theorem byteWritesStoreOneByte : Obligations.ByteWritesStoreOneByte :=
  ⟨fun _ v ha => storesOneByte_writeByteOf (b := .txf) ha v, fun _ v ha => storesOneByte_writeByteOf (b := .rxf) ha v,
    fun _ v ha => storesOneByte_writeByteOf (b := .pwin) ha v⟩

/-- Settles O20, a write and a read of each buffer; the size of `PWIN` is `BUFLEN - 6`. -/
theorem bufferAccessOutsideRefused : Obligations.BufferAccessOutsideRefused := fun a v s =>
  ⟨exec_writeByteOf_eq_refused_iff .txf a v s, exec_readByteOf_eq_refused_iff .txf a s,
    exec_writeByteOf_eq_refused_iff .rxf a v s, exec_readByteOf_eq_refused_iff .rxf a s,
    exec_writeByteOf_eq_refused_iff .pwin a v s, exec_readByteOf_eq_refused_iff .pwin a s⟩

/-- Settles O13: `RDREG` reads by number, which is the table of R11. -/
theorem rdregReturnsRegister : Obligations.RdregReturnsRegister := by
  intro a s
  rw [exec_rdreg, registerView_eq_readNumber]

/-- Settles O19: an offset inside the buffer is never refused, and the answer is the byte there. -/
theorem byteReadsReturnByte : Obligations.ByteReadsReturnByte := fun _ s =>
  ⟨fun ha => exec_readByteOf_inside (b := .txf) ha s, fun ha => exec_readByteOf_inside (b := .rxf) ha s,
    fun ha => exec_readByteOf_inside (b := .pwin) ha s⟩

end Sys2Proof.Proofs
end

section
/-! The decisions of the host's protocol software (spec/50_host_protocol.md), one rule per case of a reply, a datagram or an
encoded bulk frame, and the statements of the host protocol family. -/

namespace Sys2Proof.Machine

/-! ### Stream sender: replies that repeat the confirmed number (R117) -/

/-- A decoded ACK reply that acknowledges just the bytes already confirmed (R117). -/
def RepeatsConfirmed (acked : Nat) (s : State) : Prop :=
  s.status = 0#8 ∧ flagSet s.rxFlags .ack = true ∧ s.rxAck.toNat = acked

section
variable {t : TransferState} {s : State}

theorem senderMove_of_repeatsConfirmed (h : RepeatsConfirmed t.acked s) :
    senderMove t s = if t.dups + 1 = 10 then .fail .tooManyRetx else .resend { t with dups := t.dups + 1 } := by
  obtain ⟨hstatus, hack, hnum⟩ := h
  simp [senderMove, hstatus, hack, hnum, resultByte]

/-- Duplicates are counted on from any counter that has not yet reached the limit. -/
theorem afterReplies_of_repeatsConfirmed {replies : List State} (hdups : t.dups < 10)
    (h : ∀ s ∈ replies, RepeatsConfirmed t.acked s) :
    Claims.afterReplies t replies =
      if t.dups + replies.length < 10 then .resend { t with dups := t.dups + replies.length }
      else .fail .tooManyRetx := by
  induction replies generalizing t with
  | nil => exact (if_pos hdups).symm
  | cons s rest ih =>
    obtain ⟨hfirst, hrest⟩ := List.forall_mem_cons.mp h
    rw [Claims.afterReplies, senderMove_of_repeatsConfirmed hfirst, List.length_cons]
    by_cases hlimit : t.dups + 1 = 10
    · rw [if_pos hlimit, if_neg (by omega)]
    · rw [if_neg hlimit, Nat.add_comm rest.length, ← Nat.add_assoc]
      exact ih (t := { t with dups := t.dups + 1 }) (by dsimp only; omega) hrest

end

/-! ### Bulk sender: the frame that is offered (R107, R127) -/

theorem bulkMove_of_status_blockTooLarge {t : State} (h : t.status = 4#8) : bulkMove t = .fail .blockTooLarge := if_pos h

theorem bulkMove_of_status_ok {t : State} (h : t.status = 0#8) : bulkMove t = .send (sendFrame t) :=
  if_neg (by rw [h]; decide)

/-- A BLK frame declares neither number, so its header is the shortest (R43). -/
theorem hdrLen_blk : hdrLen (flagMask .blk) = 6 := rfl

theorem payloadCap_blk (c : Config) : payloadCap c (flagMask .blk) = c.buflen - 6 := rfl

theorem toNat_bulkOffered (payload : List Byte) : (bulkOffered payload).toNat = min payload.length (2 ^ 32 - 1) :=
  Nat.mod_eq_of_lt (Nat.lt_of_le_of_lt (Nat.min_le_right ..) (by decide))

section
variable {c : Config} {s : State} {payload : List Byte}

/-- The length offered passes the capacity exactly when the payload does: the capacity is far below 2^32 - 1. -/
theorem blockTooLarge_bulkOffered (hflags : s.txFlags = flagMask .blk) (hplen : s.txPlen = bulkOffered payload) :
    blockTooLarge c s = true ↔ c.buflen - 6 < payload.length := by
  have hmax := buflen_le c
  have hblk : flagSet s.txFlags .blk = true := hflags ▸ rfl
  rw [blockTooLarge_eq_true, and_iff_right hblk, hflags, payloadCap_blk, hplen, toNat_bulkOffered]
  omega

theorem frameLen_bulkOffered (hflags : s.txFlags = flagMask .blk) (hplen : s.txPlen = bulkOffered payload)
    (hfits : payload.length ≤ c.buflen - 6) : frameLen c s = 6 + payload.length := by
  have hmax := buflen_le c
  have hpay : hasPay s.txFlags = true := hflags ▸ rfl
  rw [frameLen_eq, placedCount, if_pos hpay, hflags, hdrLen_blk, payloadCap_blk, hplen, toNat_bulkOffered]
  omega

end

/-! ### Receiver: faulty datagrams (R121) -/

section
variable {c : Config} {r : ReceiveState} {s : State}

theorem receiverMove_of_status_checksum (h : s.status = 3#8) : receiverMove c r s = .repeatAck r.received.length :=
  if_pos h

theorem receiverMove_of_rxSeq_ne (hstatus : s.status = 0#8) (hseq : s.rxSeq.toNat ≠ r.received.length) :
    receiverMove c r s = .repeatAck r.received.length := by
  simp [receiverMove, hstatus, hseq, resultByte]

end

end Sys2Proof.Machine

namespace Sys2Proof.Proofs
open Sys2Proof.Machine

/-- Settles O55: the count of `afterReplies_of_repeatsConfirmed`, begun at 0. -/
theorem senderFailsAtTenthDuplicate : Obligations.SenderFailsAtTenthDuplicate := by
  intro t replies hdups hreplies
  have hcount := afterReplies_of_repeatsConfirmed (by omega) hreplies
  rwa [hdups, Nat.zero_add] at hcount

/-- Settles O57: the block size gate tells the two moves apart, and an open gate places the whole payload. -/
theorem bulkSenderReturnsOversized : Obligations.BulkSenderReturnsOversized := by
  intro payload s hflags hplen
  have hgate := blockTooLarge_bulkOffered (c := Config.active) hflags hplen
  refine ⟨encodeCommand Config.active s, rfl, fun hover => ?_, fun hfits => ?_⟩
  · rw [encodeCommand_tooLarge (hgate.mpr hover)]
    exact bulkMove_of_status_blockTooLarge rfl
  · have hopen : blockTooLarge Config.active s = false :=
      Bool.eq_false_iff.mpr fun h => Nat.not_lt.mpr hfits (hgate.mp h)
    exact ⟨bulkMove_of_status_ok (encodeCommand_status_ok_iff.mpr hopen),
      (toNat_txLen_encodeCommand hopen).trans (frameLen_bulkOffered hflags hplen hfits)⟩

/-- Settles O56, over the two faults. -/
theorem receiverRepeatsTotal : Obligations.ReceiverRepeatsTotal := by
  rintro r s (hsum | ⟨hstatus, hseq⟩)
  · exact receiverMove_of_status_checksum hsum
  · exact receiverMove_of_rxSeq_ne hstatus hseq

end Sys2Proof.Proofs
end

section
/-! How a command or an access ends (spec/60_exceptions.md R130 to R132, spec/44_host_access.md R103): ill-formed terms are
refused (log entry 6), the codes each command can leave in `STATUS`, and the statements of the exceptions family. -/

namespace Sys2Proof.Machine

/-! ### Ill-formed instructions (log entry 6) -/

theorem exec_refuses_of_not_wellFormed {i : Instr} (hi : ¬ i.WellFormed Config.active) (s : State) :
    Refuses (exec i s) := by
  cases i with
  | encode | decode | appendFin | hashTx | hashRx | rdreg => exact absurd rfl hi
  | cmdRsvd code => exact ⟨_, if_neg hi⟩
  | wrreg a v =>
    have ha : a = 0#24 := not_not.mp fun hne => hi (bne_iff_ne.mpr hne)
    exact ⟨_, if_pos ha⟩
  | wrbTxf | rdbTxf | wrbRxf | rdbRxf | wrbPwin | rdbPwin => exact ⟨_, if_neg hi⟩

theorem exec_answers_iff_wellFormed (i : Instr) (s : State) : Answers (exec i s) ↔ i.WellFormed Config.active :=
  ⟨fun h => not_not.mp fun hi => not_refuses_of_answers h (exec_refuses_of_not_wellFormed hi s),
    fun hi => exec_answers_of_wellFormed hi s⟩

theorem exec_refuses_iff_not_wellFormed (i : Instr) (s : State) :
    Refuses (exec i s) ↔ ¬ i.WellFormed Config.active :=
  ⟨fun h hi => not_refuses_of_answers (exec_answers_of_wellFormed hi s) h,
    fun hi => exec_refuses_of_not_wellFormed hi s⟩

/-! ### The codes a command can leave (R131, R132) -/

section
variable {c : Config} (s : State)

theorem status_encodeCommand_mem : (encodeCommand c s).status ∈ [0#8, 4#8] := by
  cases h : blockTooLarge c s with
  | true => simp [encodeCommand_tooLarge h]
  | false => simp [encodeCommand_fits h]

theorem status_decodeCommand_mem : (decodeCommand c s).status ∈ [0#8, 1#8, 2#8, 3#8, 13#8] := by
  have hchecks : ∀ r ∈ [ResultCode.checksum, .version, .short], resultByte r ∈ [0#8, 1#8, 2#8, 3#8, 13#8] := by decide
  rcases decodeCommand_cases (c := c) s with e | e | ⟨r, hr, e⟩ | ⟨-, -, e⟩ <;> rw [e, State.finish_status]
  · decide
  · decide
  · exact hchecks r hr
  · decide

theorem status_appendFinCommand_mem : (appendFinCommand c s).status ∈ [0#8, 13#8] := by
  by_cases hlegal : 6 ≤ s.txLen.toNat ∧ s.txLen.toNat ≤ c.buflen
  · obtain ⟨hge, hle⟩ := hlegal
    rw [appendFinCommand_legal hge hle, State.finish_status]
    decide
  · rw [appendFinCommand_illegal (by omega), State.finish_status]
    decide

theorem status_hashCommand_mem (b : Buf) : (hashCommand c b s).status ∈ [0#8, 13#8] := by
  rcases hashCommand_cases (c := c) b s with e | e <;> rw [e, State.finish_status] <;> decide

end

end Sys2Proof.Machine

namespace Sys2Proof.Proofs
open Sys2Proof.Machine

/-- Settles O5: a well-formed instruction answers, an ill-formed one is refused, and no outcome is both. -/
theorem execAnswersExactlyWellFormed : Obligations.ExecAnswersExactlyWellFormed :=
  fun i s => ⟨exec_answers_iff_wellFormed i s, exec_refuses_iff_not_wellFormed i s⟩

/-- Settles O24: each command answers from every state, and its last effect writes one of its own codes. -/
theorem resultCodesByCommand : Obligations.ResultCodesByCommand := fun s =>
  ⟨⟨_, rfl, status_encodeCommand_mem s⟩, ⟨_, rfl, status_decodeCommand_mem s⟩, ⟨_, rfl, status_appendFinCommand_mem s⟩,
    ⟨_, rfl, status_hashCommand_mem s .txf⟩, ⟨_, rfl, status_hashCommand_mem s .rxf⟩⟩

end Sys2Proof.Proofs
end

section
/-! Reset and hazards (spec/70_reset_and_hazards.md): the step on a reset event, what the reset state is, what reception
leaves of the transmit side, and the statements of the reset and hazards family. -/

namespace Sys2Proof.Machine

variable {c : Config} {s t : State}

/-! ### Reset (R142, R143) -/

theorem step_of_pending_reset {rest : List HostInput} (h : s.pending = .reset :: rest) :
    step s = .next ({ s with pending := rest, result := none }.afterReset Config.active) := by
  simp [step, State.fetch_of_pending_cons h]

/-- The reset event leaves the registers of the reset state, whatever they held before (R143). -/
theorem registerView_afterReset (s : State) (a : Addr) :
    Claims.registerView (s.afterReset c) a = Claims.registerView { State.reset with pending := s.pending } a := rfl

theorem Inv.reset (c : Config) : Inv c State.reset where
  buffers b := by cases b <;> exact Memory.wf_nil
  statusCode := List.mem_cons_self
  txResults := .inl ⟨rfl, rfl⟩
  rxResults := .inl ⟨rfl, rfl, rfl, rfl, rfl⟩

/-! ### What reception leaves of the transmit side (R145) -/

theorem txLen_decodeCommand : (decodeCommand c s).txLen = s.txLen := by
  rcases decodeCommand_cases (c := c) s with e | e | ⟨r, -, e⟩ | ⟨-, -, e⟩ <;> rw [e] <;> rfl

theorem txLen_hashCommand (b : Buf) : (hashCommand c b s).txLen = s.txLen := by
  rcases hashCommand_cases (c := c) b s with e | e <;> rw [e] <;> rfl

/-- A host's byte write of another buffer stores nothing in `TXF`. -/
theorem sameBytes_txf_of_hostStore {b : Buf} {a : Addr} {v : Byte} (hb : b ≠ .txf)
    (hnext : hostStore c b a v s = .next t) : SameBytes c .txf s t := by
  intro x
  by_contra hchanged
  obtain ⟨hsame, -⟩ := hostStore_changes_byte hnext (Ne.symm hchanged)
  exact hb hsame.symm

theorem txLen_of_hostStore {b : Buf} {a : Addr} {v : Byte} (hnext : hostStore c b a v s = .next t) :
    t.txLen = s.txLen := by
  obtain ⟨-, rfl⟩ := hostStore_next hnext
  exact State.store_txLen ..

end Sys2Proof.Machine

namespace Sys2Proof.Proofs
open Sys2Proof.Machine

/-- Settles O53: the two commands write results only, a byte write reaches its own buffer only, and a write of `RX_LEN`
no other register. -/
theorem transmitFrameSurvivesReception : Obligations.TransmitFrameSurvivesReception := by
  rintro i s t (rfl | rfl | ⟨a, v, rfl⟩ | ⟨a, v, rfl⟩ | ⟨v, rfl⟩) hnext
  · obtain rfl := Host.Outcome.next.inj hnext
    exact ⟨fun _ => load_decodeCommand.symm, txLen_decodeCommand⟩
  · obtain rfl := Host.Outcome.next.inj hnext
    exact ⟨fun _ => (load_hashCommand .rxf).symm, txLen_hashCommand .rxf⟩
  · exact ⟨sameBytes_txf_of_hostStore (b := .rxf) (by decide) hnext, txLen_of_hostStore hnext⟩
  · exact ⟨sameBytes_txf_of_hostStore (b := .pwin) (by decide) hnext, txLen_of_hostStore hnext⟩
  · rw [exec_wrreg (by decide)] at hnext
    obtain rfl := Host.Outcome.next.inj hnext
    have hwrite : writeNumber s 0x0C#24 v = { s with rxLen := v } := writeNumber_number .rxLen v
    exact ⟨fun _ => (load_writeNumber _ v).symm, by rw [hwrite]⟩

/-- Settles O8: the registers are those of the reset state (`resetRegisterValues`), and no byte has been written since. -/
theorem resetEventState : Obligations.ResetEventState := fun _ rest hpending =>
  ⟨_, step_of_pending_reset hpending, rfl,
    fun addr => (registerView_afterReset _ addr).trans (resetRegisterValues rest addr),
    fun b x => State.load_afterReset _ b x⟩

/-- Settles O10: no buffer has a cell, and the registers are 0. -/
theorem resetHasInvariant : Obligations.ResetHasInvariant := Inv.reset Config.active

end Sys2Proof.Proofs
end
